-- ==== Sys2Proof/Word.lean ====
section
/-! DEFINITION. The word types of the command-channel engine (spec 00_scope.md R10, R11): bytes, 16-bit and
32-bit values, and the 128-bit keys, challenges and responses as four 32-bit words. -/

namespace Sys2Proof

/-- A byte is 8 bits (R11). -/
abbrev Byte := BitVec 8

/-- A 16-bit value: identifiers, frame lengths, storage offsets (R10). -/
abbrev Half := BitVec 16

/-- A 32-bit value: the Timestamp and the words of keys and challenges (R10). -/
abbrev Word := BitVec 32

/-- "Key, challenge and response values are 4 words of 32 bits each" (R10). -/
structure Block where
  /-- Word 0. -/
  w0 : Word
  /-- Word 1. -/
  w1 : Word
  /-- Word 2. -/
  w2 : Word
  /-- Word 3. -/
  w3 : Word
deriving DecidableEq, Repr, Inhabited

end Sys2Proof
end

