-- ==== Sys2Proof/Syntax.lean ====
section
/-! DEFINITION. The instructions: one constructor per row of spec/opcode_table.json. An instruction is one
command message (spec 00_scope.md R2), and its operands are the payload fields of 30_encoding.md R83 to R90. -/

namespace Sys2Proof

/-- A command message. Every command carries the header field `Len2`, which no handler reads (R83); the other
operands are the fields of the command's own layout rule. -/
inductive Instr where
  /-- 0x0514 SESSION_START (R85). -/
  | sessionStart (len2 : Half) (timestamp : Word)
  /-- 0x051B MEM_READ (R86). `pad` is payload byte 7, ignored. -/
  | memRead (len2 : Half) (offset : Half) (count : Byte) (pad : Byte) (timestamp : Word)
  /-- 0x051D MEM_WRITE (R87). `data` is the `8*floor(Count/8)` data bytes. -/
  | memWrite (len2 : Half) (offset : Half) (count : Byte) (allowPw : Byte) (timestamp : Word) (data : List Byte)
  /-- 0x051F NOP_051F (R90). -/
  | nop051F (len2 : Half)
  /-- 0x0521 NOP_0521 (R90). -/
  | nop0521 (len2 : Half)
  /-- 0x0527 RF_STATUS (R90). -/
  | rfStatus (len2 : Half)
  /-- 0x0529 BATT_STATUS (R90). -/
  | battStatus (len2 : Half)
  /-- 0x052D AUTH_RESPONSE (R88). -/
  | authResponse (len2 : Half) (response : Block)
  /-- 0x052F FACTORY_RESET (R89). -/
  | factoryReset (len2 : Half) (timestamp : Word)
  /-- 0x05DD REBOOT_BL (R90). -/
  | rebootBl (len2 : Half)
deriving DecidableEq, Repr

/-- The rows of the identifier map (30_encoding.md R99), without operands. -/
inductive Opcode where
  | sessionStart | memRead | memWrite | nop051F | nop0521
  | rfStatus | battStatus | authResponse | factoryReset | rebootBl
deriving DecidableEq, Repr

end Sys2Proof
end

