-- ==== Sys2Proof/WellFormed.lean ====
section
/-! DEFINITION. Which instructions a payload can spell. Every operand but the data of a MEM_WRITE has the width of
its field, so the one check left is the length of that data (spec 30_encoding.md R87). -/

namespace Sys2Proof

/-- "only `8*floor(Count/8)` are used": how many data bytes a MEM_WRITE with this Count carries (R87). -/
def dataLength (count : Byte) : Nat := 8 * (count.toNat / 8)

/-- The instruction's operands fit its encoding (R85 to R90). -/
def Instr.WellFormed : Instr → Bool
  | .sessionStart _ _ => true
  | .memRead _ _ _ _ _ => true
  | .memWrite _ _ count _ _ data => data.length == dataLength count
  | .nop051F _ => true
  | .nop0521 _ => true
  | .rfStatus _ => true
  | .battStatus _ => true
  | .authResponse _ _ => true
  | .factoryReset _ _ => true
  | .rebootBl _ => true

end Sys2Proof
end

