-- ==== Sys2Proof/Decode.lean ====
section
/-! DEFINITION. Field reads, the decoder of a command payload and its encoder (spec 00_scope.md R13,
30_encoding.md R83 to R90 and R99). The decoder is total: an identifier outside the map is rejected by name. -/

namespace Sys2Proof

/-- Byte `i` of a byte string; past its end, 0x00. A handler that reads a field past the end of the working buffer
raises a Fault before it uses the value (44_dispatcher.md R196), so the 0x00 is never used. -/
def byteAt (bs : List Byte) (i : Nat) : Byte := bs.getD i 0

/-- `le16(A, i)` (R13). -/
def le16 (bs : List Byte) (i : Nat) : Half := byteAt bs (i + 1) ++ byteAt bs i

/-- `le32(A, i)` (R13). -/
def le32 (bs : List Byte) (i : Nat) : Word :=
  byteAt bs (i + 3) ++ byteAt bs (i + 2) ++ byteAt bs (i + 1) ++ byteAt bs i

/-- Four 32-bit words from offset `i`, word 0 first (30_encoding.md R88, R92). -/
def leBlock (bs : List Byte) (i : Nat) : Block :=
  { w0 := le32 bs i, w1 := le32 bs (i + 4), w2 := le32 bs (i + 8), w3 := le32 bs (i + 12) }

/-- `bytes16(v)`, low byte first (R13). -/
def bytes16 (v : Half) : List Byte := [v.extractLsb' 0 8, v.extractLsb' 8 8]

/-- `bytes32(v)`, low byte first (R13). -/
def bytes32 (v : Word) : List Byte :=
  [v.extractLsb' 0 8, v.extractLsb' 8 8, v.extractLsb' 16 8, v.extractLsb' 24 8]

/-- The 16 bytes of four words, word 0 first. -/
def bytesBlock (b : Block) : List Byte := bytes32 b.w0 ++ bytes32 b.w1 ++ bytes32 b.w2 ++ bytes32 b.w3

/-- The rows of the identifier map, in the table's order (30_encoding.md R99). -/
def opcodes : List Opcode :=
  [.sessionStart, .memRead, .memWrite, .nop051F, .nop0521, .rfStatus, .battStatus, .authResponse, .factoryReset,
   .rebootBl]

/-- The identifier of a row of the map (R99). -/
def opcodeId : Opcode → Half
  | .sessionStart => 0x0514
  | .memRead => 0x051B
  | .memWrite => 0x051D
  | .nop051F => 0x051F
  | .nop0521 => 0x0521
  | .rfStatus => 0x0527
  | .battStatus => 0x0529
  | .authResponse => 0x052D
  | .factoryReset => 0x052F
  | .rebootBl => 0x05DD

/-- "every 16-bit value of `ID` selects exactly one row of this table, or none" (R99), by exact match on all 16
bits (44_dispatcher.md R180). -/
def selectOpcode (id : Half) : Option Opcode := opcodes.find? fun o => opcodeId o == id

/-- The fields of a command whose identifier selected the row `o`: payload byte `off` is `bs[off]` (R83 to R90). -/
def decodeFields (o : Opcode) (bs : List Byte) : Instr :=
  match o with
  | .sessionStart => .sessionStart (le16 bs 2) (le32 bs 4)
  | .memRead => .memRead (le16 bs 2) (le16 bs 4) (byteAt bs 6) (byteAt bs 7) (le32 bs 8)
  | .memWrite =>
    .memWrite (le16 bs 2) (le16 bs 4) (byteAt bs 6) (byteAt bs 7) (le32 bs 8)
      ((bs.drop 12).take (dataLength (byteAt bs 6)))
  | .nop051F => .nop051F (le16 bs 2)
  | .nop0521 => .nop0521 (le16 bs 2)
  | .rfStatus => .rfStatus (le16 bs 2)
  | .battStatus => .battStatus (le16 bs 2)
  | .authResponse => .authResponse (le16 bs 2) (leBlock bs 4)
  | .factoryReset => .factoryReset (le16 bs 2) (le32 bs 4)
  | .rebootBl => .rebootBl (le16 bs 2)

/-- Why a byte string is no command. -/
inductive DecodeError where
  /-- It is too short to hold an identifier. -/
  | noIdentifier
  /-- Its identifier is not in the map (R100). -/
  | unrecognised (id : Half)
deriving DecidableEq, Repr

/-- The command a payload spells. The dispatched identifier is `le16` of its first two bytes (R84). Bytes after the
command's last field are ignored. -/
def decode (bs : List Byte) : Except DecodeError Instr :=
  if bs.length < 2 then .error .noIdentifier
  else
    match selectOpcode (le16 bs 0) with
    | some o => .ok (decodeFields o bs)
    | none => .error (.unrecognised (le16 bs 0))

/-- The row of the map an instruction belongs to. -/
def opcodeOf : Instr → Opcode
  | .sessionStart _ _ => .sessionStart
  | .memRead _ _ _ _ _ => .memRead
  | .memWrite _ _ _ _ _ _ => .memWrite
  | .nop051F _ => .nop051F
  | .nop0521 _ => .nop0521
  | .rfStatus _ => .rfStatus
  | .battStatus _ => .battStatus
  | .authResponse _ _ => .authResponse
  | .factoryReset _ _ => .factoryReset
  | .rebootBl _ => .rebootBl

/-- `Len2`, payload bytes 2 and 3 (R83). -/
def len2Of : Instr → Half
  | .sessionStart l _ => l
  | .memRead l _ _ _ _ => l
  | .memWrite l _ _ _ _ _ => l
  | .nop051F l => l
  | .nop0521 l => l
  | .rfStatus l => l
  | .battStatus l => l
  | .authResponse l _ => l
  | .factoryReset l _ => l
  | .rebootBl l => l

/-- Payload bytes 4 onwards (R85 to R90). -/
def encodeFields : Instr → List Byte
  | .sessionStart _ ts => bytes32 ts
  | .memRead _ off n pad ts => bytes16 off ++ [n, pad] ++ bytes32 ts
  | .memWrite _ off n allow ts data => bytes16 off ++ [n, allow] ++ bytes32 ts ++ data
  | .nop051F _ => []
  | .nop0521 _ => []
  | .rfStatus _ => []
  | .battStatus _ => []
  | .authResponse _ r => bytesBlock r
  | .factoryReset _ ts => bytes32 ts
  | .rebootBl _ => []

/-- The payload of a command: identifier, `Len2`, fields (R83 to R90). -/
def encode (i : Instr) : List Byte := bytes16 (opcodeId (opcodeOf i)) ++ bytes16 (len2Of i) ++ encodeFields i

/-- The `n` low bytes of `w`, least significant first: the payload bytes a number of the opcode table stands for. -/
def bytesOfNat : Nat → Nat → List Byte
  | 0, _ => []
  | n + 1, w => BitVec.ofNat 8 (w % 256) :: bytesOfNat n (w / 256)

/-- The longest command: a MEM_WRITE with Count 248 or more (R87). -/
def longestPayload : Nat := 260

/-- The payload whose bits are `w`, numbered as the opcode table numbers them, with every bit above `nbits` zero,
up to the longest command. -/
def tablePayload (nbits w : Nat) : List Byte :=
  bytesOfNat (nbits / 8) w ++ List.replicate (longestPayload - nbits / 8) 0

end Sys2Proof

/-- The instruction the decoder reads from the opcode-table word `w` of `nbits` bits. -/
def Sys2Proof.decodeTableWord (nbits w : Nat) : Option Sys2Proof.Instr :=
  match Sys2Proof.decode (Sys2Proof.tablePayload nbits w) with
  | .ok i => some i
  | .error _ => none
end

