-- ==== Sys2Proof/Config.lean ====
section
/-! DEFINITION. The implementation parameters of spec 00_scope.md R8 and the free values of the model. A parameter
that is plain data is a field of `Params`; a parameter that is a function is named there by a choice whose `contract`
case stands for a function nothing is known of. The opaque constants have no body: a statement that holds in terms of
them holds whatever they are. -/

namespace Sys2Proof

/-- When `Challenge` is redrawn (`CHALLENGE_POLICY`, R8, 43_authenticator.md R166). -/
inductive ChallengePolicy where
  /-- Once after every `Authenticate`, the default. -/
  | afterEachResponse
  /-- Once before each version reply is built. -/
  | onEachVersionReply
  /-- Never after reset. -/
  | onResetOnly
deriving DecidableEq, Repr

/-- The gating predicate (`GATE_MODE`, R8, 43_authenticator.md R167). -/
inductive GateMode where
  /-- Denied while `Locked = 1`, the default. -/
  | locked
  /-- Denied while `Locked = 1` and a custom key is present. -/
  | lockedAndCustomKey
deriving DecidableEq, Repr

/-- How the storage collaborator answers reads (`STORAGE_MODEL`, R8, 20_memory.md R69). -/
inductive StorageModel where
  /-- Every read returns arbitrary bytes, the default. -/
  | oracle
  /-- A read returns the last byte written there. -/
  | image
deriving DecidableEq, Repr

/-- The function `CRC16` (R8, 42_crc.md R150). -/
inductive Crc16Choice where
  /-- "an opaque deterministic function": `Config.crc16`. -/
  | contract
  /-- The CRC-16/XMODEM candidate of 42_crc.md R154. PRESUMED (log 2). -/
  | xmodem
deriving DecidableEq, Repr

/-- The function `AES_ENC` (R8, 43_authenticator.md R162). -/
inductive CipherChoice where
  /-- A black-box block cipher: `Config.aesEnc`. -/
  | contract
  /-- The candidate of 92 D6: AES-128 over words serialised little-endian. PRESUMED (log 3). -/
  | aes128
deriving DecidableEq, Repr

/-- A range predicate (`READ_GATED`, `WRITE_GATED`, R8). -/
inductive RangeChoice where
  /-- True for all ranges, the default. -/
  | always
  /-- A predicate nothing is known of: `Config.readGated` or `Config.writeGated`. -/
  | contract
deriving DecidableEq, Repr

/-- The implementation parameters (R8). -/
structure Params where
  /-- `CAP`: ring buffer capacity in bytes, 9 to 65536. -/
  cap : Nat
  /-- `OBF_KEY[0..15]`. -/
  obfKey : Vector Byte 16
  /-- `RESUME_ID`. -/
  resumeId : Half
  /-- `CRC16`. -/
  crc16 : Crc16Choice
  /-- `AES_ENC`. -/
  aesEnc : CipherChoice
  /-- `DEFAULT_KEY`, the content of the register `DefaultKey` (10_state.md R32). -/
  defaultKey : Block
  /-- `TS_RESET`. -/
  tsReset : Word
  /-- `TS_CHECKED`. -/
  tsChecked : List Half
  /-- `CHALLENGE_POLICY`. -/
  challengePolicy : ChallengePolicy
  /-- `GATE_MODE`. -/
  gateMode : GateMode
  /-- `READ_GATED`. -/
  readGated : RangeChoice
  /-- `WRITE_GATED`. -/
  writeGated : RangeChoice
  /-- `CAL_LO`. -/
  calLo : Half
  /-- `CAL_HI`. -/
  calHi : Half
  /-- `PW_LO`. -/
  pwLo : Half
  /-- `PW_HI`. -/
  pwHi : Half
  /-- `MAX_READ_LEN`. -/
  maxReadLen : Nat
  /-- `WB_CAP`: working buffer size in bytes, at least `CAP - 6`. -/
  wbCap : Nat
  /-- `WB_RESET`: `WB_CAP` bytes. -/
  wbReset : List Byte
  /-- `VERSION`: at most 15 bytes. -/
  version : List Byte
  /-- `STORAGE_MODEL`. -/
  storageModel : StorageModel
deriving DecidableEq, Repr

/-- The ranges R8 gives its parameters. -/
structure Params.Valid (p : Params) : Prop where
  /-- `9 <= CAP`. -/
  cap_ge : 9 ≤ p.cap
  /-- `CAP <= 65536`. -/
  cap_le : p.cap ≤ 65536
  /-- `WB_CAP >= CAP - 6`. -/
  wbCap_ge : p.cap - 6 ≤ p.wbCap
  /-- `WB_RESET` is `WB_CAP` bytes. -/
  wbReset_length : p.wbReset.length = p.wbCap
  /-- `VERSION` has at most 15 bytes. -/
  version_length : p.version.length ≤ 15

/-- `draw(byte)`: the `n`-th free byte (R14). No law. -/
opaque Config.freeByte : Nat → Byte

/-- `draw(32 bits)` from `P_RNG`: the `n`-th free word (R14, 10_state.md R30). No law. -/
opaque Config.rngWord : Nat → Word

/-- The content of `STORE` at reset, a draw for each offset (20_memory.md R69). -/
opaque Config.storeAtReset : Nat → Byte

/-- `CRC16` as the source has it: "an opaque deterministic function" (42_crc.md R150). -/
opaque Config.crc16 : List Byte → Half

/-- `AES_ENC` as the source has it: a black box from key and block to block (43_authenticator.md R162). -/
opaque Config.aesEnc : Block → Block → Block

/-- `READ_GATED(off, len)` as an unknown predicate (R8). -/
opaque Config.readGated : Half → Nat → Bool

/-- `WRITE_GATED(off, len)` as an unknown predicate (R8). -/
opaque Config.writeGated : Half → Nat → Bool

/-- `DEFAULT_KEY`, which the spec leaves open with no default (R8, 92 D7). DESIGN CHOICE (log 4). -/
opaque Config.defaultKey : Block

/-- `VERSION`, which the spec leaves open with no default (R8, 92 D25). DESIGN CHOICE (log 4). -/
opaque Config.version : List Byte

/-- `n` free bytes, the first of them the `start`-th: `draw(n bytes)` (R14). -/
def freeBytes (start n : Nat) : List Byte := (List.range n).map fun k => Config.freeByte (start + k)

/-- Four free words from `P_RNG`, the first of them the `start`-th: `draw(4 x 32 bits)` (10_state.md R30). -/
def freeBlock (start : Nat) : Block :=
  { w0 := Config.rngWord start, w1 := Config.rngWord (start + 1), w2 := Config.rngWord (start + 2),
    w3 := Config.rngWord (start + 3) }

/-- `OBF_KEY` of the upstream firmware (93 G2). PRESUMED (log 1). -/
def Config.upstreamObfKey : Vector Byte 16 :=
  #v[0x16, 0x6C, 0x14, 0xE6, 0x2E, 0x91, 0x0D, 0x40, 0x21, 0x35, 0xD5, 0x40, 0x13, 0x03, 0xE9, 0x80]

/-- The parameters at the defaults of R8. The values marked there as general knowledge are PRESUMED (log 1); the
two with no default are opaque (log 4). -/
def Params.defaults : Params where
  cap := 256
  obfKey := Config.upstreamObfKey
  resumeId := 0x6902
  crc16 := .xmodem
  aesEnc := .contract
  defaultKey := Config.defaultKey
  tsReset := 0
  tsChecked := [0x051B, 0x051D]
  challengePolicy := .afterEachResponse
  gateMode := .locked
  readGated := .always
  writeGated := .always
  calLo := 0x0F30
  calHi := 0x0F40
  pwLo := 0x0E98
  pwHi := 0x0EA0
  maxReadLen := 128
  wbCap := 256
  wbReset := List.replicate 256 0
  version := Config.version.take 15
  storageModel := .oracle

end Sys2Proof
end

