-- ==== Sys2Proof/Machine/State.lean ====
section
/-! DEFINITION. The state of the command-channel engine as plain data (spec 10_state.md), the outcomes of a poll
transaction (60_exceptions.md R231), and the machine right after reset (70_reset_and_hazards.md R250). -/

namespace Sys2Proof.Machine

/-- A sparse byte array: (address, byte) pairs with addresses strictly rising and no entry equal to what an unlisted
address of its space reads as (`Memory.wf`, Machine/Ops.lean). The ring, the working buffer and the storage image are
each one. -/
abbrev Memory := List Host.Cell

/-- The reasons of `raise Fault(reason)` (60_exceptions.md R236). The spec gives the effect of a Fault (`Faulted <- 1`,
the poll ends, later ticks are ignored), so a Fault is a NEXT state of this machine and its reason stands in
`lastOutcome`; no step answers with a host fault. -/
inductive Fault where
  /-- Raised by MEM_READ when Count exceeds `MAX_READ_LEN` (R236, 44_dispatcher.md R186). Safe: the machine runs no
  further poll. -/
  | readTooLong
  /-- Raised by a handler whose field reads reach `WB_CAP` (R236, 44_dispatcher.md R196). Safe: the machine runs no
  further poll. -/
  | wbOverread
deriving DecidableEq, Repr

/-- Why the model would have no meaning for an instruction. -/
inductive Refusal where
  /-- Raised by an arm of `exec` whose instruction has no meaning yet; every instruction has one, so nothing raises it.
  Safe: a refused step is no step. -/
  | notModelled (mnemonic : String)
deriving DecidableEq, Repr

/-- The events of the output ports (10_state.md R39). -/
inductive OutEvent where
  /-- "a hard device restart with no reply". -/
  | reboot
  /-- The configuration fields are forced to safe defaults. -/
  | factoryDefaults
  /-- The request to leave power-save mode. -/
  | pwrsaveExit
  /-- The storage reinitialisation call. -/
  | storeReinit
  /-- A storage read of `count` bytes at `offset`. -/
  | storeRd (offset : Half) (count : Nat)
  /-- A storage write of `data` at `offset`. -/
  | storeWr (offset : Half) (data : List Byte)
deriving DecidableEq, Repr

/-- The input ports, each with the value it keeps for a whole poll transaction (10_state.md R36, 92 D45). -/
structure Ports where
  /-- `P_LOCKSCREEN`. -/
  lockScreen : Bool
  /-- `P_KEYCFG.present`. -/
  keyPresent : Bool
  /-- `P_KEYCFG.key`. -/
  key : Block
  /-- `P_RF.rssi`. -/
  rssi : Half
  /-- `P_RF.noise`. -/
  noise : Byte
  /-- `P_RF.glitch`. -/
  glitch : Byte
  /-- `P_BATT.voltage`. -/
  voltage : Half
  /-- `P_BATT.current`. -/
  current : Half
deriving DecidableEq, Repr

/-- What the other agents do to the machine between polls (10_state.md R35, R36, R38, R44). -/
inductive EnvEvent where
  /-- `P_TICK`: one poll transaction. -/
  | tick
  /-- The link delivers a byte: one step of the DMA producer (20_memory.md R72). -/
  | byte (b : Byte)
  /-- The input ports take new values. -/
  | ports (p : Ports)
  /-- `P_RESET`: power-on reset (10_state.md R38). -/
  | powerOn
deriving DecidableEq, Repr

/-- The outcome of a poll transaction (60_exceptions.md R231). An observation: the machine never emits it. -/
inductive PollOutcome where
  | noneEmpty
  | noneIncomplete
  /-- It records the bad `Size`. -/
  | noneOversize (size : Nat)
  | noneBadEnd
  | noneCrc
  | stale
  | authFail
  | denied
  | noAction
  | noHandler
  | replied
  | reboot
  | fault (reason : Fault)
deriving DecidableEq, Repr

/-- The machine's state. The fields up to `ev` are the registers of 10_state.md R20 (`DefaultKey` is `cfg.defaultKey`). -/
structure State where
  /-- The parameters of 00_scope.md R8, `DefaultKey` among them. No step writes them. -/
  cfg : Params
  /-- `rd`, the read cursor (R22). -/
  rd : Nat
  /-- `RB`, the receive ring buffer (R23). -/
  rb : Memory
  /-- `wr`, the DMA producer's write cursor (R24). -/
  wr : Nat
  /-- `WB`, the working buffer (R25). -/
  wb : Memory
  /-- `IsEncrypted`, the codec mode (R26). -/
  isEncrypted : Bool
  /-- `Timestamp` (R27). -/
  timestamp : Word
  /-- `Locked` (R28). -/
  locked : Bool
  /-- `FAC`, the failed-attempt count (R29). -/
  fac : BitVec 2
  /-- `Challenge[0..3]` (R30). -/
  challenge : Block
  /-- `CustomKeyPresent` (R31). -/
  customKeyPresent : Bool
  /-- `CustomKey[0..3]` (R31). -/
  customKey : Block
  /-- `Faulted` (R43). -/
  faulted : Bool
  /-- `TX`, the transmit stream since power-on (R40). -/
  tx : List Byte
  /-- `EV`, the event log since power-on (R41). -/
  ev : List OutEvent
  /-- `STORE`, the storage collaborator's bytes written since power-on of the storage (20_memory.md R69). -/
  store : Memory
  /-- The input ports (R36). -/
  ports : Ports
  /-- The model's own: how many free values have been drawn (log 5). -/
  draws : Nat
  /-- The model's own: the outcome of the last poll transaction, none before the first (log 17). -/
  lastOutcome : Option PollOutcome
  /-- The model's own: what the other agents do next, first to last; when it is empty no agent has a step (logs 7
  and 19). -/
  agenda : List EnvEvent
deriving DecidableEq, Repr

/-- The input ports at `State.reset`: no lock screen, no custom key, zero readings. DESIGN CHOICE (log 6). -/
def Ports.idle : Ports where
  lockScreen := false
  keyPresent := false
  key := { w0 := 0, w1 := 0, w2 := 0, w3 := 0 }
  rssi := 0
  noise := 0
  glitch := 0
  voltage := 0
  current := 0

/-- The machine right after power-on reset (70_reset_and_hazards.md R250) with the default parameters (R8) and idle
ports (log 6). The challenge is a draw: the first four free words. -/
def State.reset : State where
  cfg := Params.defaults
  rd := 0
  rb := []
  wr := 0
  wb := []
  isEncrypted := true
  timestamp := Params.defaults.tsReset
  locked := Ports.idle.keyPresent
  fac := 0
  challenge := freeBlock 0
  customKeyPresent := Ports.idle.keyPresent
  customKey := Ports.idle.key
  faulted := false
  tx := []
  ev := []
  store := []
  ports := Ports.idle
  draws := 4
  lastOutcome := none
  agenda := []

end Sys2Proof.Machine
end

