-- ==== Sys2Proof/Machine/Ops.lean ====
section
/-! DEFINITION. The named operations over memories, cursors, logs and registers (spec 20_memory.md, 10_state.md R30,
R31, R40, R41), raising a Fault (60_exceptions.md R236), the DMA step (20_memory.md R72) and reset
(70_reset_and_hazards.md R250). -/

namespace Sys2Proof.Machine

/-! ### Sparse memories -/

/-- The byte listed at address `a`. -/
def Memory.lookup : Memory → Nat → Option Byte
  | [], _ => none
  | (k, v) :: m, a => if k = a then some v else Memory.lookup m a

/-- List the byte `b` at address `a`, keeping addresses rising. -/
def Memory.put : Memory → Nat → Byte → Memory
  | [], a, b => [(a, b)]
  | (k, v) :: m, a, b =>
    if a < k then (a, b) :: (k, v) :: m
    else if a = k then (a, b) :: m
    else (k, v) :: Memory.put m a b

/-- List nothing at address `a`. -/
def Memory.erase : Memory → Nat → Memory
  | [], _ => []
  | (k, v) :: m, a => if k = a then Memory.erase m a else (k, v) :: Memory.erase m a

/-- The byte at address `a` of a memory whose unlisted addresses read as `blank` says; `none` where that is not
known. -/
def Memory.read (blank : Nat → Option Byte) (m : Memory) (a : Nat) : Option Byte :=
  match Memory.lookup m a with
  | some v => some v
  | none => blank a

/-- Write a byte, keeping the canonical form: the value an unlisted address reads as is not listed. -/
def Memory.write (blank : Nat → Option Byte) (m : Memory) (a : Nat) (b : Byte) : Memory :=
  if blank a = some b then Memory.erase m a else Memory.put m a b

/-- Write a byte string at consecutive addresses. -/
def Memory.writeSeq (blank : Nat → Option Byte) (m : Memory) (a : Nat) : List Byte → Memory
  | [] => m
  | b :: bs => Memory.writeSeq blank (Memory.write blank m a b) (a + 1) bs

/-- Addresses strictly rising from at least `low`. -/
def Memory.rising (low : Nat) : Memory → Bool
  | [] => true
  | (k, _) :: m => decide (low ≤ k) && Memory.rising (k + 1) m

/-- The canonical form: addresses strictly rising and below `size`, and no entry equal to what an unlisted address
reads as. -/
def Memory.wf (blank : Nat → Option Byte) (size : Nat) (m : Memory) : Bool :=
  Memory.rising 0 m && m.all fun c => decide (c.1 < size) && decide (blank c.1 ≠ some c.2)

/-! ### The ring buffer (20_memory.md R61) -/

/-- An unlisted ring byte reads as 0x00: the content at reset, which the spec leaves open and unobservable
(10_state.md R23). DESIGN CHOICE (log 8). -/
def ringBlank : Nat → Option Byte := fun _ => some 0

/-- `RB[i]`. -/
def rbByte (s : State) (i : Nat) : Byte := (Memory.read ringBlank s.rb i).getD 0

/-- `ring(i) = i mod CAP` (00_scope.md R12). -/
def ring (cap i : Nat) : Nat := i % cap

/-- `pend(r, w) = (w - r) mod CAP`, for cursors in range (00_scope.md R12). -/
def pend (cap r w : Nat) : Nat := (w + cap - r) % cap

/-- `RB[ring(base + k)]`: byte `k` past a ring position (20_memory.md R61). -/
def ringByte (s : State) (base k : Nat) : Byte := rbByte s (ring s.cfg.cap (base + k))

/-- `le16r(i)`: a 16-bit field of the ring at `ring(base + k)` (00_scope.md R13). -/
def ringLe16 (s : State) (base k : Nat) : Half := ringByte s base (k + 1) ++ ringByte s base k

/-- `n` ring bytes from the ring position `base`, taken circularly. -/
def ringBytes (s : State) (base n : Nat) : List Byte := (List.range n).map (ringByte s base)

/-- `RB` after a byte string is written circularly from position `base`. -/
def ringWriteSeq (cap : Nat) (m : Memory) (base : Nat) : List Byte → Memory
  | [] => m
  | b :: bs => ringWriteSeq cap (Memory.write ringBlank m (ring cap base) b) (base + 1) bs

/-! ### The working buffer (20_memory.md R62) -/

/-- An unlisted working-buffer byte reads as its `WB_RESET` byte (10_state.md R25). -/
def workBlank (p : Params) : Nat → Option Byte := fun i => some (byteAt p.wbReset i)

/-- `WB[i]`. -/
def wbByte (s : State) (i : Nat) : Byte := (Memory.read (workBlank s.cfg) s.wb i).getD 0

/-- The whole working buffer, `WB[0..WB_CAP-1]`. -/
def wbBytes (s : State) : List Byte := (List.range s.cfg.wbCap).map (wbByte s)

/-! ### Logs, draws and outcomes -/

/-- `emit(bytes)`: append to `TX` (00_scope.md R14, 10_state.md R40). -/
def emit (bytes : List Byte) (s : State) : State := { s with tx := s.tx ++ bytes }

/-- `signal(event)`: append to `EV` (00_scope.md R14, 10_state.md R41). -/
def signal (e : OutEvent) (s : State) : State := { s with ev := s.ev ++ [e] }

/-- `n` free values have been taken (log 5). -/
def spendDraws (n : Nat) (s : State) : State := { s with draws := s.draws + n }

/-- `return <outcome>` (00_scope.md R14, 60_exceptions.md R231). -/
def finish (o : PollOutcome) (s : State) : State := { s with lastOutcome := some o }

/-- `raise Fault(reason)`: "It sets `Faulted <- 1` and ends the poll transaction" (60_exceptions.md R236). -/
def raiseFault (reason : Fault) (s : State) : State := { s with faulted := true, lastOutcome := some (.fault reason) }

/-! ### Session registers -/

/-- `Timestamp <- v`. -/
def setTimestamp (v : Word) (s : State) : State := { s with timestamp := v }

/-- `Locked <- lk` and `FAC <- n`. -/
def setLock (lk : Bool) (n : BitVec 2) (s : State) : State := { s with locked := lk, fac := n }

/-- `Challenge <- draw(4 x 32 bits)` (10_state.md R30). -/
def redrawChallenge (s : State) : State := { s with challenge := freeBlock s.draws, draws := s.draws + 4 }

/-- `(CustomKeyPresent, CustomKey) <- P_KEYCFG` (10_state.md R31, 20_memory.md R77). -/
def loadKeyCache (s : State) : State := { s with customKeyPresent := s.ports.keyPresent, customKey := s.ports.key }

/-! ### Storage (20_memory.md R66 to R69) -/

/-- The size of the storage address space: 16-bit offsets. -/
def storeSize : Nat := 0x10000

/-- An unlisted storage byte has no known value: its content at reset is a draw (R69). -/
def storeBlank : Nat → Option Byte := fun _ => none

/-- `STORE[a]` under `IMAGE` (R69). The content at reset is the free value `Config.storeAtReset a` (log 9). -/
def storeByte (s : State) (a : Nat) : Byte := (Memory.read storeBlank s.store a).getD (Config.storeAtReset a)

/-- The bytes `MemRead(off, n)` returns (R66): draws under `ORACLE`, the stored bytes under `IMAGE`, where an offset
past 0xFFFF is a draw. -/
def memReadData (off : Half) (n : Nat) (s : State) : List Byte :=
  match s.cfg.storageModel with
  | .oracle => freeBytes s.draws n
  | .image =>
    (List.range n).map fun k =>
      if off.toNat + k < storeSize then storeByte s (off.toNat + k) else Config.freeByte (s.draws + k)

/-- The effect of `MemRead(off, n)` on the machine: its event, and the draws it takes (R66). -/
def memReadEffect (off : Half) (n : Nat) (s : State) : State := spendDraws n (signal (.storeRd off n) s)

/-- `STORE` after `data` is written from offset `a`; a byte whose offset reaches 0x10000 is dropped (R67). -/
def storeWriteSeq (m : Memory) (a : Nat) : List Byte → Memory
  | [] => m
  | b :: bs => storeWriteSeq (if a < storeSize then Memory.write storeBlank m a b else m) (a + 1) bs

/-- The effect of the storage collaborator taking a write: none the machine can see under `ORACLE` (R67). -/
def storeData (off : Half) (data : List Byte) (s : State) : State :=
  match s.cfg.storageModel with
  | .oracle => s
  | .image => { s with store := storeWriteSeq s.store off.toNat data }

/-- `MemWrite(off, 8, data)` (R67). -/
def memWriteEffect (off : Half) (data : List Byte) (s : State) : State := storeData off data (signal (.storeWr off data) s)

/-- `StorageReinit()`: signal, then reload the key cache (R68). -/
def storageReinit (s : State) : State := loadKeyCache (signal .storeReinit s)

/-! ### The DMA producer and reset -/

/-- `DmaStep(b): RB[wr] <- b ; wr <- ring(wr + 1)`, with no check of `rd` (20_memory.md R72). -/
def dmaStep (b : Byte) (s : State) : State :=
  { s with rb := Memory.write ringBlank s.rb s.wr b, wr := ring s.cfg.cap (s.wr + 1) }

/-- `Reset()` (70_reset_and_hazards.md R250), in its order. `TX`, `EV`, `Faulted`, storage and the ports are not its
to write. -/
def resetRegisters (s : State) : State :=
  let s := loadKeyCache s
  let s := { s with
    locked := s.customKeyPresent
    fac := 0
    isEncrypted := true
    timestamp := s.cfg.tsReset }
  let s := redrawChallenge s
  { s with rd := 0, wr := 0, rb := [], wb := [] }

/-- Power-on (`P_RESET`): `Reset()`, with `TX` and `EV` empty and `Faulted` 0 (R250). DEDUCED (log 11). -/
def powerOn (s : State) : State :=
  { resetRegisters s with tx := [], ev := [], faulted := false, lastOutcome := none }

end Sys2Proof.Machine
end

