-- ==== Sys2Proof/Machine/Crc.lean ====
section
/-! DEFINITION. The integrity verifier (spec 42_crc.md): `CRC16` as the parameter R150 makes it, and the XMODEM
candidate of R154. -/

namespace Sys2Proof.Machine

/-- One bit of the XMODEM candidate: shift left, and XOR 0x1021 when the bit shifted out was 1 (R154). -/
def crcBit (c : Half) : Half := if c.msb then (c <<< 1) ^^^ 0x1021 else c <<< 1

/-- `n` bits. -/
def crcBits : Nat → Half → Half
  | 0, c => c
  | n + 1, c => crcBits n (crcBit c)

/-- One byte: XOR it into the high half, then eight bits (R154). -/
def crcByte (c : Half) (b : Byte) : Half := crcBits 8 (c ^^^ (b ++ (0 : Byte)))

/-- `CRC16_XMODEM` (R154): initial value 0, no final XOR. PRESUMED (log 2). -/
def crcXmodem (bytes : List Byte) : Half := bytes.foldl crcByte 0

/-- `CRC16` (R150): the parameter's choice. -/
def crc16 (p : Params) (bytes : List Byte) : Half :=
  match p.crc16 with
  | .contract => Config.crc16 bytes
  | .xmodem => crcXmodem bytes

/-- `VerifyCRC(Size)` over a plaintext body, payload then CRC field (R151): the CRC covers the payload only (R152),
and its field is little-endian (R153). -/
def verifyCrc (p : Params) (size : Nat) (body : List Byte) : Bool := crc16 p (body.take size) == le16 body size

end Sys2Proof.Machine
end

