-- ==== Sys2Proof/Machine/Flags.lean ====
section
/-! DEFINITION. The one-bit state and the predicates over it: the codec mode toggle (spec 40_codec.md R112), the gate
and the two denial predicates (43_authenticator.md R167), the address windows (20_memory.md R70) and the
password-window test (43_authenticator.md R168). -/

namespace Sys2Proof.Machine

/-- The codec mode after a frame with this raw identifier: 0x0514 selects plaintext, then `RESUME_ID` selects
encrypted, so that the second wins where the two are equal (R112, 92 D46). -/
def modeAfter (resumeId rawId : Half) (mode : Bool) : Bool :=
  if rawId = resumeId then true else if rawId = 0x0514 then false else mode

/-- `Gate()` (R167). -/
def gate (s : State) : Bool :=
  match s.cfg.gateMode with
  | .locked => s.locked
  | .lockedAndCustomKey => s.locked && s.customKeyPresent

/-- `READ_GATED(o, n)` (00_scope.md R8). -/
def readGated (p : Params) (o : Half) (n : Nat) : Bool :=
  match p.readGated with
  | .always => true
  | .contract => Config.readGated o n

/-- `WRITE_GATED(o, n)` (00_scope.md R8). -/
def writeGated (p : Params) (o : Half) (n : Nat) : Bool :=
  match p.writeGated with
  | .always => true
  | .contract => Config.writeGated o n

/-- `ReadDenied(o, n)` (R167). -/
def readDenied (s : State) (o : Half) (n : Nat) : Bool := gate s && readGated s.cfg o n

/-- `WriteDenied(o, n)` (R167). -/
def writeDenied (s : State) (o : Half) (n : Nat) : Bool := gate s && writeGated s.cfg o n

/-- `CAL_LO <= o < CAL_HI` (20_memory.md R70). -/
def inCalWindow (p : Params) (o : Half) : Bool := decide (p.calLo.toNat ≤ o.toNat) && decide (o.toNat < p.calHi.toNat)

/-- `PW_LO <= o < PW_HI` (20_memory.md R70). -/
def inPwWindow (p : Params) (o : Half) : Bool := decide (p.pwLo.toNat ≤ o.toNat) && decide (o.toNat < p.pwHi.toNat)

/-- A chunk at `o` is skipped: it starts in the password window while `P_LOCKSCREEN = 1` and the command does not
allow password writes (R168). -/
def pwSkipped (s : State) (allow : Bool) (o : Half) : Bool := inPwWindow s.cfg o && s.ports.lockScreen && !allow

end Sys2Proof.Machine
end

