-- ==== Sys2Proof/Machine/Codec.lean ====
section
/-! DEFINITION. The transport codec (spec 40_codec.md): obfuscation, the footer of a reply, and the frames both ways
(30_encoding.md R80, R82, R98; 44_dispatcher.md R182). -/

namespace Sys2Proof.Machine

/-- `OBF_KEY[k mod 16]` (R110). -/
def keyByte (p : Params) (k : Nat) : Byte := p.obfKey[k % 16]'(Nat.mod_lt k (by decide))

/-- XOR each byte with the key byte of its position, the first at position `k`. -/
def obfuscateFrom (p : Params) (k : Nat) : List Byte → List Byte
  | [] => []
  | b :: bs => (b ^^^ keyByte p k) :: obfuscateFrom p (k + 1) bs

/-- `Obfuscate(A, n)` over the n bytes of A, and `Deobfuscate`, the same function (R110, R111). -/
def obfuscate (p : Params) (bytes : List Byte) : List Byte := obfuscateFrom p 0 bytes

/-- A body as the codec sends or receives it in this mode (R82, R114). -/
def codec (p : Params) (mode : Bool) (bytes : List Byte) : List Byte := if mode then obfuscate p bytes else bytes

/-- `Footer(L)` (R113). -/
def footer (p : Params) (mode : Bool) (len : Nat) : List Byte :=
  if mode then [0xFF ^^^ keyByte p len, 0xFF ^^^ keyByte p (len + 1)] else [0xFF, 0xFF]

/-- The start marker (30_encoding.md R80). -/
def startMarker : List Byte := [0xAB, 0xCD]

/-- The end marker (30_encoding.md R80). -/
def endMarker : List Byte := [0xDC, 0xBA]

/-- The bytes `SendReply(P, L)` emits (44_dispatcher.md R182). -/
def replyFrame (p : Params) (mode : Bool) (payload : List Byte) : List Byte :=
  startMarker ++ bytes16 (BitVec.ofNat 16 payload.length) ++ codec p mode payload ++ footer p mode payload.length ++
    endMarker

/-- `SendReply(P, L)` in the mode current when it runs (44_dispatcher.md R182, R114). -/
def sendReply (payload : List Byte) (s : State) : State := emit (replyFrame s.cfg s.isEncrypted payload) s

/-- A command frame carrying this payload, its body in the given mode (30_encoding.md R80, R82, R102). -/
def commandFrame (p : Params) (mode : Bool) (payload : List Byte) : List Byte :=
  startMarker ++ bytes16 (BitVec.ofNat 16 payload.length) ++ codec p mode (payload ++ bytes16 (crc16 p payload)) ++
    endMarker

end Sys2Proof.Machine
end

