-- ==== Sys2Proof/Machine/Operands.lean ====
section
/-! DEFINITION. What a handler reads of its command: whether its fields lie in the working buffer (spec
44_dispatcher.md R196), the timestamp check (R181), and the chunks of a write (R187). -/

namespace Sys2Proof.Machine

/-- The byte after the last one MEM_READ reads: its Timestamp ends at 12 and is read only where the check applies
(R181, R186); Count is byte 6. -/
def memReadReach (p : Params) : Nat := if (0x051B : Half) ∈ p.tsChecked then 12 else 7

/-- How many 8-byte chunks a write of `count` bytes has: `floor(Count/8)` (R187). -/
def chunkCount (count : Byte) : Nat := count.toNat / 8

/-- The byte after the last one MEM_WRITE reads of its data: `12 + 8*m` (R187). -/
def memWriteReach (count : Byte) : Nat := 12 + 8 * chunkCount count

/-- A handler of identifier `id` is stopped by the timestamp check: `id` is in `TS_CHECKED` and its Timestamp field
differs from the session's (R181). -/
def isStale (id : Half) (timestamp : Word) (s : State) : Bool :=
  decide (id ∈ s.cfg.tsChecked) && decide (timestamp ≠ s.timestamp)

/-- The storage offset of chunk `i`: `(off + 8*i) mod 0x10000` (R187). -/
def chunkOffset (off : Half) (i : Nat) : Half := off + BitVec.ofNat 16 (8 * i)

/-- Data chunk `i` of a write (R87). -/
def chunkData (data : List Byte) (i : Nat) : List Byte := (data.drop (8 * i)).take 8

/-- "Any nonzero value means set" (R87). -/
def allowsPw (allowPw : Byte) : Bool := decide (allowPw ≠ 0)

/-- A handler whose field reads end before byte `reach` of the working buffer runs; otherwise it "raises
`Fault(WB_OVERREAD)` before any of its effects" (R196). -/
def withinWB (reach : Nat) (s : State) (run : Host.Outcome State Fault Refusal) : Host.Outcome State Fault Refusal :=
  if s.cfg.wbCap < reach then .next (raiseFault .wbOverread s) else run

end Sys2Proof.Machine
end

