-- ==== Sys2Proof/Machine/Auth.lean ====
section
/-! DEFINITION. The device-lock authenticator (spec 43_authenticator.md) and the command that runs it, AUTH_RESPONSE
(44_dispatcher.md R192). -/

namespace Sys2Proof.Machine

/-- `IsBadChallenge(K, C, R)`: the encrypted challenge differs from the response in some word (R162). -/
def isBadChallenge (p : Params) (key challenge response : Block) : Bool :=
  let e := aesEnc p key challenge
  decide (e.w0 ≠ response.w0) || decide (e.w1 ≠ response.w1) || decide (e.w2 ≠ response.w2) ||
    decide (e.w3 ≠ response.w3)

/-- The response passes the custom key: one is present and the response is its encryption of the challenge (R163). -/
def customGood (s : State) (response : Block) : Bool :=
  s.customKeyPresent && !isBadChallenge s.cfg s.customKey s.challenge response

/-- The response passes the default key (R163). -/
def defaultGood (s : State) (response : Block) : Bool :=
  !isBadChallenge s.cfg s.cfg.defaultKey s.challenge response

/-- The two key tests of R163, in its order: the lock the response earns, and the counter after it. -/
def tryKeys (s : State) (response : Block) : Bool × BitVec 2 :=
  if customGood s response then (false, s.fac)
  else if defaultGood s response then (false, if s.fac.toNat < 3 then 0 else s.fac)
  else (true, BitVec.ofNat 2 (min (s.fac.toNat + 1) 3))

/-- The new `Locked` and `FAC` of `Authenticate(R)`: "lockout overrides every path" (R163). -/
def authResult (s : State) (response : Block) : Bool × BitVec 2 :=
  if 3 ≤ (tryKeys s response).2.toNat then (true, 3) else tryKeys s response

/-- `Authenticate(R)` (R163). It writes `Locked` and `FAC` only. -/
def authenticate (response : Block) (s : State) : State :=
  setLock (authResult s response).1 (authResult s response).2 s

/-- A flag as the byte a reply carries: 0x00 or 0x01 (30_encoding.md R92, R97). -/
def flagByte (b : Bool) : Byte := if b then 1 else 0

/-- The payload of the 0x052E lock-status reply: `Locked`, then three draws (30_encoding.md R97, R192). -/
def lockStatusPayload (s : State) : List Byte :=
  bytes16 0x052E ++ bytes16 4 ++ [flagByte s.locked] ++ freeBytes s.draws 3

/-- Send the lock-status reply (R192). -/
def sendLockStatus (s : State) : State := spendDraws 3 (sendReply (lockStatusPayload s) s)

/-- The redraw after a response, under `AFTER_EACH_RESPONSE` only (R166). -/
def refreshAfterResponse (s : State) : State :=
  match s.cfg.challengePolicy with
  | .afterEachResponse => redrawChallenge s
  | .onEachVersionReply => s
  | .onResetOnly => s

/-- AUTH_RESPONSE, `H_052D` (44_dispatcher.md R192). Its fields end at payload byte 20 (30_encoding.md R88). The
outcome is `AUTH_FAIL` when the resulting lock is 1 (60_exceptions.md R237). -/
def execAuthResponse (response : Block) (s : State) : Host.Outcome State Fault Refusal :=
  withinWB 20 s <|
    let s1 := authenticate response s
    .next (finish (if s1.locked then .authFail else .replied) (refreshAfterResponse (sendLockStatus s1)))

end Sys2Proof.Machine
end

