-- ==== Sys2Proof/Machine/Session.lean ====
section
/-! DEFINITION. The session commands: SESSION_START, FACTORY_RESET and REBOOT_BL (spec 44_dispatcher.md R184, R193,
R194), and the version reply the first two send (R185). -/

namespace Sys2Proof.Machine

/-- How many filler bytes follow the version string's terminator: `15 - len(VERSION)` (R185). -/
def versionFill (p : Params) : Nat := 15 - p.version.length

/-- The 16 bytes `VERSION ++ [0x00] ++ draw(15 - len(VERSION) bytes)` (R185). -/
def versionField (p : Params) (draws : Nat) : List Byte :=
  (List.range 16).map fun k =>
    if k < p.version.length then byteAt p.version k
    else if k = p.version.length then 0
    else Config.freeByte (draws + (k - (p.version.length + 1)))

/-- The payload of the 0x0515 version/status reply (30_encoding.md R92). -/
def versionPayload (s : State) : List Byte :=
  bytes16 0x0515 ++ bytes16 36 ++ versionField s.cfg s.draws ++
    [flagByte s.customKeyPresent, flagByte s.ports.lockScreen] ++ freeBytes (s.draws + versionFill s.cfg) 2 ++
    bytesBlock s.challenge

/-- The redraw before a version reply, under `ON_EACH_VERSION_REPLY` only (R185). -/
def refreshBeforeVersion (s : State) : State :=
  match s.cfg.challengePolicy with
  | .onEachVersionReply => redrawChallenge s
  | .afterEachResponse => s
  | .onResetOnly => s

/-- `SendVersion()` (R185). -/
def sendVersion (s : State) : State :=
  let s := refreshBeforeVersion s
  spendDraws (versionFill s.cfg + 2) (sendReply (versionPayload s) s)

/-- SESSION_START, `H_0514` (R184): always replies, with no timestamp check. Its field ends at payload byte 8. -/
def execSessionStart (timestamp : Word) (s : State) : Host.Outcome State Fault Refusal :=
  withinWB 8 s <| .next (finish .replied (sendVersion (setTimestamp timestamp s)))

/-- FACTORY_RESET, `H_052F` (R193). Its field ends at payload byte 8. -/
def execFactoryReset (timestamp : Word) (s : State) : Host.Outcome State Fault Refusal :=
  withinWB 8 s <|
    .next (finish .replied (sendVersion (setTimestamp timestamp (signal .pwrsaveExit (signal .factoryDefaults s)))))

/-- REBOOT_BL, `H_05DD` (R194): signal and return `REBOOT`; the poll applies the reset (R197). -/
def execRebootBl (s : State) : Host.Outcome State Fault Refusal := .next (finish .reboot (signal .reboot s))

end Sys2Proof.Machine
end

