-- ==== Sys2Proof/Machine/Status.lean ====
section
/-! DEFINITION. The commands with no fields that leave session state alone: the two no-ops and the two status
queries (spec 44_dispatcher.md R188 to R191), and the handler of no command (R195). -/

namespace Sys2Proof.Machine

/-- NOP_051F, `H_051F` (R188). -/
def execNop051F (s : State) : Host.Outcome State Fault Refusal := .next (finish .noAction s)

/-- NOP_0521, `H_0521` (R189). -/
def execNop0521 (s : State) : Host.Outcome State Fault Refusal := .next (finish .noAction s)

/-- The payload of the 0x0528 RF-status reply, from `P_RF` (30_encoding.md R95). -/
def rfStatusPayload (p : Ports) : List Byte := bytes16 0x0528 ++ bytes16 4 ++ bytes16 p.rssi ++ [p.noise, p.glitch]

/-- RF_STATUS, `H_0527` (R190). -/
def execRfStatus (s : State) : Host.Outcome State Fault Refusal :=
  .next (finish .replied (sendReply (rfStatusPayload s.ports) s))

/-- The payload of the 0x052A battery-status reply, from `P_BATT` (30_encoding.md R96). -/
def battStatusPayload (p : Ports) : List Byte :=
  bytes16 0x052A ++ bytes16 4 ++ bytes16 p.voltage ++ bytes16 p.current

/-- BATT_STATUS, `H_0529` (R191). -/
def execBattStatus (s : State) : Host.Outcome State Fault Refusal :=
  .next (finish .replied (sendReply (battStatusPayload s.ports) s))

/-- `H_none`, for every identifier outside the map (R195). -/
def noHandler (s : State) : State := finish .noHandler s

end Sys2Proof.Machine
end

