-- ==== Sys2Proof/Machine/Storage.lean ====
section
/-! DEFINITION. The storage commands MEM_READ and MEM_WRITE (spec 44_dispatcher.md R186, R187). -/

namespace Sys2Proof.Machine

/-- The payload of the 0x051C reply: header, Offset, Count, 0x00, data (30_encoding.md R93). -/
def memReadPayload (off : Half) (count : Byte) (data : List Byte) : List Byte :=
  bytes16 0x051C ++ bytes16 (BitVec.ofNat 16 (count.toNat + 4)) ++ bytes16 off ++ [count, 0] ++ data

/-- The read of a MEM_READ that passed its checks: zero data when denied, the storage bytes otherwise (R186). -/
def replyRead (off : Half) (count : Byte) (s : State) : State :=
  if readDenied s off count.toNat then
    finish .denied (sendReply (memReadPayload off count (List.replicate count.toNat 0)) s)
  else
    finish .replied
      (sendReply (memReadPayload off count (memReadData off count.toNat s)) (memReadEffect off count.toNat s))

/-- MEM_READ, `H_051B` (R186): the timestamp check, then the length check, then the gate (60_exceptions.md R239). -/
def execMemRead (offset : Half) (count : Byte) (timestamp : Word) (s : State) : Host.Outcome State Fault Refusal :=
  withinWB (memReadReach s.cfg) s <|
    if isStale 0x051B timestamp s then .next (finish .stale s)
    else if s.cfg.maxReadLen < count.toNat then .next (raiseFault .readTooLong s)
    else .next (replyRead offset count s)

/-- Chunk `i` of a permitted write: skipped by the password window, or written (R187, 43_authenticator.md R168). -/
def writeChunk (off : Half) (allow : Bool) (data : List Byte) (s : State) (i : Nat) : State :=
  if pwSkipped s allow (chunkOffset off i) then s else memWriteEffect (chunkOffset off i) (chunkData data i) s

/-- Chunks `0 .. m-1` of a permitted write, in order (R187). -/
def writeChunks (off : Half) (allow : Bool) (data : List Byte) (m : Nat) (s : State) : State :=
  (List.range m).foldl (writeChunk off allow data) s

/-- Some chunk starts in the calibration window while `Locked = 0`: the write asks for a reinitialisation (R187). -/
def needsReinit (off : Half) (m : Nat) (s : State) : Bool :=
  (List.range m).any fun i => inCalWindow s.cfg (chunkOffset off i) && !s.locked

/-- The effect of a permitted write: its chunks, then at most one `StorageReinit` (R187). The chunks change neither
`Locked` nor the windows, so the test may stand before them. -/
def permittedWrite (off : Half) (allow : Bool) (data : List Byte) (m : Nat) (s : State) : State :=
  let s' := writeChunks off allow data m s
  if needsReinit off m s then storageReinit s' else s'

/-- The payload of the 0x051E acknowledgement (30_encoding.md R94). -/
def memWritePayload (off : Half) : List Byte := bytes16 0x051E ++ bytes16 2 ++ bytes16 off

/-- The write of a MEM_WRITE that passed its checks: acknowledged whether denied or not (R187). -/
def replyWrite (off : Half) (count : Byte) (allow : Bool) (data : List Byte) (s : State) : State :=
  if writeDenied s off count.toNat then finish .denied (sendReply (memWritePayload off) s)
  else finish .replied (sendReply (memWritePayload off) (permittedWrite off allow data (chunkCount count) s))

/-- MEM_WRITE, `H_051D` (R187): the timestamp check, then the working-buffer check, then the gate
(60_exceptions.md R239). Its fixed fields end at payload byte 12. -/
def execMemWrite (offset : Half) (count allowPw : Byte) (timestamp : Word) (data : List Byte) (s : State) :
    Host.Outcome State Fault Refusal :=
  withinWB 12 s <|
    if isStale 0x051D timestamp s then .next (finish .stale s)
    else if s.cfg.wbCap < memWriteReach count then .next (raiseFault .wbOverread s)
    else .next (replyWrite offset count (allowsPw allowPw) data s)

end Sys2Proof.Machine
end

