-- ==== Sys2Proof/Machine/Dispatch.lean ====
section
/-! DEFINITION. The dispatcher: one arm per command (spec 44_dispatcher.md R180). -/

namespace Sys2Proof.Machine

def exec (i : Instr) (s : State) : Host.Outcome State Fault Refusal :=
  match i with
  | .sessionStart _ ts => Sys2Proof.Machine.execSessionStart ts s
  | .memRead _ off count _ ts => Sys2Proof.Machine.execMemRead off count ts s
  | .memWrite _ off count allowPw ts data => Sys2Proof.Machine.execMemWrite off count allowPw ts data s
  | .nop051F _ => Sys2Proof.Machine.execNop051F s
  | .nop0521 _ => Sys2Proof.Machine.execNop0521 s
  | .rfStatus _ => Sys2Proof.Machine.execRfStatus s
  | .battStatus _ => Sys2Proof.Machine.execBattStatus s
  | .authResponse _ response => Sys2Proof.Machine.execAuthResponse response s
  | .factoryReset _ ts => Sys2Proof.Machine.execFactoryReset ts s
  | .rebootBl _ => Sys2Proof.Machine.execRebootBl s

end Sys2Proof.Machine
end

