-- ==== Sys2Proof/Machine/Extractor.lean ====
section
/-! DEFINITION. The ring extractor `TryExtractFrame` (spec 41_ring_extractor.md R121). -/

namespace Sys2Proof.Machine

/-- What an extraction returns (R120). -/
inductive Extraction where
  /-- "no frame", with the poll's outcome. -/
  | noFrame (o : PollOutcome)
  /-- `READY(Size)`. -/
  | ready (size : Nat)
deriving DecidableEq, Repr

/-- Where the marker scan of R121 stops. -/
inductive Scan where
  /-- Nothing is pending at this cursor. -/
  | empty (rd : Nat)
  /-- A 0xAB with fewer than 8 pending bytes. -/
  | short (rd : Nat)
  /-- A start marker, and how many bytes are pending from it. -/
  | header (rd : Nat) (pendN : Nat)
deriving DecidableEq, Repr

/-- The loop of R121 over the pending bytes, of which `n` are left from the cursor `r`. An advance of the cursor
takes one pending byte, so `n` is `pend(r, w)` throughout and the loop ends when it is 0. -/
def scan (s : State) : Nat → Nat → Scan
  | 0, r => .empty r
  | n + 1, r =>
    if rbByte s r ≠ 0xAB then scan s n (ring s.cfg.cap (r + 1))
    else if n + 1 < 8 then .short r
    else if ringByte s r 1 = 0xCD then .header r (n + 1)
    else scan s n (ring s.cfg.cap (r + 1))

/-- Steps 5 to 9 of R121 for a complete frame of payload length `size` at `r`: copy the body, zero the frame, advance
`rd`, toggle the mode by the raw identifier, reverse the obfuscation, check the CRC. -/
def consume (s : State) (r size : Nat) : Extraction × State :=
  let raw := ringBytes s (r + 4) (size + 2)
  let mode := modeAfter s.cfg.resumeId (le16 raw 0) s.isEncrypted
  let body := codec s.cfg mode raw
  let s' := { s with
    rb := ringWriteSeq s.cfg.cap s.rb r (List.replicate (size + 8) 0)
    rd := ring s.cfg.cap (r + size + 8)
    wb := Memory.writeSeq (workBlank s.cfg) s.wb 0 body
    isEncrypted := mode }
  if verifyCrc s.cfg size body then (.ready size, s') else (.noFrame .noneCrc, s')

/-- Steps 3 and 4 of R121 for a start marker at `r` with `pendN` pending bytes, `w` being the sampled write cursor.
`Size + 8` is a natural number, so it does not overflow (20_memory.md R61). -/
def examine (s : State) (w r pendN : Nat) : Extraction × State :=
  let size := (ringLe16 s r 2).toNat
  if s.cfg.cap < size + 8 then (.noFrame (.noneOversize size), { s with rd := w })
  else if pendN < size + 8 then (.noFrame .noneIncomplete, { s with rd := r })
  else if ringByte s r (size + 6) ≠ 0xDC ∨ ringByte s r (size + 7) ≠ 0xBA then
    (.noFrame .noneBadEnd, { s with rd := w })
  else consume s r size

/-- `TryExtractFrame()` (R121). -/
def tryExtract (s : State) : Extraction × State :=
  match scan s (pend s.cfg.cap s.rd s.wr) s.rd with
  | .empty r => (.noFrame .noneEmpty, { s with rd := r })
  | .short r => (.noFrame .noneIncomplete, { s with rd := r })
  | .header r pendN => examine s s.wr r pendN

end Sys2Proof.Machine
end

