-- ==== Sys2Proof/Machine/Poll.lean ====
section
/-! DEFINITION. The poll transaction (spec 44_dispatcher.md R197), one step of whichever agent moves next
(10_state.md R44), and the placing of a command frame where the next poll extracts it. -/

namespace Sys2Proof.Machine

/-- The handler of this command returns `REBOOT`: it is `H_05DD` (R194). -/
def returnsReboot (i : Instr) : Bool := opcodeOf i == .rebootBl

/-- "if a handler returned REBOOT: Reset()" (R197). -/
def endPoll (i : Instr) : Host.Outcome State Fault Refusal → Host.Outcome State Fault Refusal
  | .next s => .next (if returnsReboot i then resetRegisters s else s)
  | .fault r => .fault r
  | .refused r => .refused r

/-- `Dispatch(le16(WB, 0))` (R180) and the end of the poll (R197): decode the command from the whole working buffer,
so that fields past a short payload are the retained bytes (R196), and run its handler. A working buffer too small
for an identifier is an over-read. -/
def dispatchWB (s : State) : Host.Outcome State Fault Refusal :=
  match decode (wbBytes s) with
  | .ok i => endPoll i (exec i s)
  | .error (.unrecognised _) => .next (noHandler s)
  | .error .noIdentifier => .next (raiseFault .wbOverread s)

/-- `Poll()` (R197). A tick that arrives while `Faulted = 1` is ignored (60_exceptions.md R236, R240). -/
def poll (s : State) : Host.Outcome State Fault Refusal :=
  if s.faulted then .next s
  else
    match tryExtract s with
    | (.noFrame o, s') => .next (finish o s')
    | (.ready _, s') => dispatchWB s'

/-- The link delivers `b`: one step of the DMA producer (20_memory.md R72). At `Faulted = 1` no agent has a step
(70_reset_and_hazards.md R263), and the byte is passed over. -/
def receive (b : Byte) (s : State) : State := if s.faulted then s else dmaStep b s

/-- One event of the other agents, taken between polls (R44). -/
def runEvent (e : EnvEvent) (s : State) : Host.Outcome State Fault Refusal :=
  match e with
  | .tick => poll s
  | .byte b => .next (receive b s)
  | .ports p => .next { s with ports := p }
  | .powerOn => .next (powerOn s)

/-- The next event, the first of the agenda. When none is listed no agent has a step, and the state stays as it is
(70_reset_and_hazards.md R263, R251; logs 7 and 19). -/
def advance (s : State) : Host.Outcome State Fault Refusal :=
  match s.agenda with
  | [] => .next s
  | e :: rest => runEvent e { s with agenda := rest }

/-- The bytes of an opcode-table word that its command reads: the command's length, or the identifier and whatever
the word gives where no command is decoded. -/
def fetchPayload (nbits w : Nat) : List Byte :=
  match decode (tablePayload nbits w) with
  | .ok i => (tablePayload nbits w).take (encode i).length
  | .error _ => (tablePayload nbits w).take (max 2 (nbits / 8))

/-- The longest payload a frame can carry: `CAP - 9` bytes (41_ring_extractor.md R131). -/
def framePart (p : Params) (payload : List Byte) : List Byte := payload.take (p.cap - 9)

/-- `WB` with a payload's tail, past what a frame can carry, left in it as if by an earlier frame (log 13). -/
def leaveTail (p : Params) (payload : List Byte) (m : Memory) : Memory :=
  if payload.length ≤ p.cap - 9 then m
  else Memory.writeSeq (workBlank p) m 0 (payload.take p.wbCap)

/-- Place a command frame with this payload as the next pending bytes, nothing else pending, with a tick next
(log 13): what the DMA producer leaves after delivering it into an empty ring. -/
def placeFrame (payload : List Byte) (s : State) : State :=
  let frame := commandFrame s.cfg s.isEncrypted (framePart s.cfg payload)
  { s with
    rb := ringWriteSeq s.cfg.cap s.rb s.rd frame
    wr := ring s.cfg.cap (s.rd + frame.length)
    wb := leaveTail s.cfg payload s.wb
    faulted := false
    agenda := .tick :: s.agenda }

end Sys2Proof.Machine
end

