-- ==== Sys2Proof/Machine/Step.lean ====
section
/-! DEFINITION. One step of the machine, and the placing of one instruction where the next step fetches it. -/

namespace Sys2Proof.Machine

/-- One step: the next event of the agents, where there is one (spec 10_state.md R35, R44; 70_reset_and_hazards.md
R263). -/
def step (s : State) : Host.Outcome State Fault Refusal := advance s

/-- `s` with the instruction of the opcode-table word `w` as the next frame pending in the ring, in the codec mode of
`s`, and a tick as the next event. -/
def State.withFetchWord (s : State) (nbits w : Nat) : State := placeFrame (fetchPayload nbits w) s

end Sys2Proof.Machine
end

