-- ==== Sys2Proof/Machine/Run.lean ====
section
/-! DEFINITION. The end of a run and what is observed of it (spec 70_reset_and_hazards.md R263). -/

namespace Sys2Proof.Machine

/-- An agent has a step to take for this event: the CCE for a tick, the DMA producer for a byte (10_state.md R44). New
port values and a power-on are no agent's step. -/
def EnvEvent.isAgentStep : EnvEvent → Bool
  | .tick => true
  | .byte _ => true
  | .ports _ => false
  | .powerOn => false

/-- The run has ended: "no tick is pending, the DMA producer has no byte to deliver, or `Faulted = 1`" (R263). -/
def runEnded (s : State) : Bool := s.faulted || !s.agenda.any EnvEvent.isAgentStep

/-- At most `n` steps, no further than the end of the run. -/
def runSteps : Nat → State → Host.Outcome State Fault Refusal
  | 0, s => .next s
  | n + 1, s =>
    if runEnded s then .next s
    else
      match step s with
      | .next t => runSteps n t
      | .fault r => .fault r
      | .refused r => .refused r

/-- A finite run from `s`: "a finite sequence of `P_TICK` and `DmaStep` events" (R263), among which the ports may take
new values and the power may come on. Each step takes one event, so one step for each is enough. -/
def finiteRun (events : List EnvEvent) (s : State) : Host.Outcome State Fault Refusal :=
  runSteps events.length { s with agenda := events }

/-- The session state (00_scope.md R5). -/
structure SessionState where
  /-- `Timestamp`. -/
  timestamp : Word
  /-- `IsEncrypted`. -/
  isEncrypted : Bool
  /-- `Locked`. -/
  locked : Bool
  /-- `FAC`. -/
  fac : BitVec 2
  /-- `DefaultKey`. -/
  defaultKey : Block
  /-- `CustomKeyPresent`. -/
  customKeyPresent : Bool
  /-- `CustomKey`. -/
  customKey : Block
  /-- `Challenge`. -/
  challenge : Block
deriving DecidableEq, Repr

/-- The final observation of a run, "(`TX`, `EV`, session state, `rd`, `RB`, `Faulted`)" (R263). -/
structure Observation where
  /-- `TX`. -/
  tx : List Byte
  /-- `EV`. -/
  ev : List OutEvent
  /-- The session state. -/
  session : SessionState
  /-- `rd`. -/
  rd : Nat
  /-- `RB[0..CAP-1]`. -/
  rb : List Byte
  /-- `Faulted`. -/
  faulted : Bool
deriving DecidableEq, Repr

/-- The session state that `s` holds. -/
def sessionOf (s : State) : SessionState where
  timestamp := s.timestamp
  isEncrypted := s.isEncrypted
  locked := s.locked
  fac := s.fac
  defaultKey := s.cfg.defaultKey
  customKeyPresent := s.customKeyPresent
  customKey := s.customKey
  challenge := s.challenge

/-- What is observed of `s` (R263). -/
def observe (s : State) : Observation where
  tx := s.tx
  ev := s.ev
  session := sessionOf s
  rd := s.rd
  rb := (List.range s.cfg.cap).map (rbByte s)
  faulted := s.faulted

end Sys2Proof.Machine
end

