-- ==== Sys2Proof/Safety.lean ====
section
/-! DEFINITION. The terms statements are made in: what a safe state is (spec 60_exceptions.md R236,
70_reset_and_hazards.md R263), the invariant every step keeps, and the reply frame as 30_encoding.md R80 and
40_codec.md R114 describe it. -/

namespace Sys2Proof.Machine

/-- "A state with `Faulted = 1` is never an acceptable final state" (R263). -/
def State.Safe (s : State) : Prop := s.faulted = false

/-- The run has ended: "no tick is pending, the DMA producer has no byte to deliver, or `Faulted = 1`" (R263). -/
def RunHasEnded (s : State) : Prop := s.faulted = true ∨ ∀ e ∈ s.agenda, e ≠ .tick ∧ ∀ b, e ≠ .byte b

/-- A final state of a run that is acceptable: the run has ended, with `Faulted` 0 (R263). -/
def State.AcceptableFinal (s : State) : Prop := RunHasEnded s ∧ s.Safe

/-- The invariant of the machine. -/
structure State.Inv (s : State) : Prop where
  /-- The parameters lie in the ranges of 00_scope.md R8. -/
  params : s.cfg.Valid
  /-- `rd` is an index of the ring (10_state.md R22). -/
  rd_lt : s.rd < s.cfg.cap
  /-- `wr` is an index of the ring (10_state.md R24). -/
  wr_lt : s.wr < s.cfg.cap
  /-- The ring is in canonical form, within CAP bytes. -/
  rb_wf : Memory.wf ringBlank s.cfg.cap s.rb = true
  /-- The working buffer is in canonical form, within WB_CAP bytes (20_memory.md R62). -/
  wb_wf : Memory.wf (workBlank s.cfg) s.cfg.wbCap s.wb = true
  /-- The storage image is in canonical form, within 0x10000 bytes. -/
  store_wf : Memory.wf storeBlank storeSize s.store = true
  /-- Three failures lock the device (43_authenticator.md R163). -/
  lockout : s.fac = 3 → s.locked = true
  /-- `Faulted` stands exactly where the last poll raised a Fault (60_exceptions.md R236). -/
  fault_mark : s.faulted = true ↔ ∃ r, s.lastOutcome = some (.fault r)

/-- Every byte of the ring, of the working buffer and of storage reads in `t` as in `s`. -/
def SameMemory (s t : State) : Prop :=
  (∀ a, rbByte t a = rbByte s a) ∧ (∀ a, wbByte t a = wbByte s a) ∧ ∀ a, storeByte t a = storeByte s a

/-- The frame of a reply carrying this payload in the codec mode of `s`: markers, length, and "the codec image of P
followed by 0xFF 0xFF" (R80, R114). -/
def wireReply (s : State) (payload : List Byte) : List Byte :=
  [0xAB, 0xCD] ++ bytes16 (BitVec.ofNat 16 payload.length) ++ codec s.cfg s.isEncrypted (payload ++ [0xFF, 0xFF]) ++
    [0xDC, 0xBA]

/-- The ring holds the byte string `bytes` circularly from position `r`. -/
def RingHolds (s : State) (r : Nat) (bytes : List Byte) : Prop :=
  ∀ k, k < bytes.length → ringByte s r k = byteAt bytes k

/-- The DMA producer takes these bytes, one step for each (20_memory.md R72). -/
def deliver (bytes : List Byte) (s : State) : State := bytes.foldl (fun s b => dmaStep b s) s

/-- A tick comes next, and then `rest`. -/
def TickNext (s : State) (rest : List EnvEvent) : Prop := s.agenda = .tick :: rest

/-- The timestamp check does not stop a command of identifier `id` whose Timestamp field is `ts`: the identifier is
not in `TS_CHECKED`, or the field is the session's `Timestamp` (44_dispatcher.md R181, 00_scope.md R8). -/
def TimestampAccepted (s : State) (id : Half) (ts : Word) : Prop := id ∈ s.cfg.tsChecked → ts = s.timestamp

/-- The fields MEM_READ reads lie in the working buffer: Offset and Count, and its Timestamp field where the check
applies to it (44_dispatcher.md R186, R196, 30_encoding.md R86). -/
def ReadFieldsFit (p : Params) : Prop := 7 ≤ p.wbCap ∧ ((0x051B : Half) ∈ p.tsChecked → 12 ≤ p.wbCap)

/-- The gate is closed: `Locked = 1`, and under `LOCKED_AND_CUSTOM_KEY` a custom key is present too
(43_authenticator.md R167). -/
def GateCloses (s : State) : Prop :=
  s.locked = true ∧
    (s.cfg.gateMode = .locked ∨ (s.cfg.gateMode = .lockedAndCustomKey ∧ s.customKeyPresent = true))

/-- A storage read of `n` bytes at `o` is denied: the gate is closed and `READ_GATED(o, n)` holds
(43_authenticator.md R167, 00_scope.md R8). -/
def ReadIsDenied (s : State) (o : Half) (n : Nat) : Prop :=
  GateCloses s ∧ (s.cfg.readGated = .always ∨ (s.cfg.readGated = .contract ∧ Config.readGated o n = true))

/-- A storage write of `n` bytes at `o` is denied: the gate is closed and `WRITE_GATED(o, n)` holds
(43_authenticator.md R167, 00_scope.md R8). -/
def WriteIsDenied (s : State) (o : Half) (n : Nat) : Prop :=
  GateCloses s ∧ (s.cfg.writeGated = .always ∨ (s.cfg.writeGated = .contract ∧ Config.writeGated o n = true))

/-- A chunk that starts at `o` is skipped by the password window: `PW_LO <= o < PW_HI`, `P_LOCKSCREEN = 1` and
`AllowPw = 0` (43_authenticator.md R168). -/
abbrev PwProtected (s : State) (allow : Byte) (o : Half) : Prop :=
  s.cfg.pwLo.toNat ≤ o.toNat ∧ o.toNat < s.cfg.pwHi.toNat ∧ s.ports.lockScreen = true ∧ allow = 0

/-- A chunk that starts at `o` starts in the calibration window: `CAL_LO <= o < CAL_HI` (20_memory.md R70). -/
abbrev StartsInCalibration (s : State) (o : Half) : Prop := s.cfg.calLo.toNat ≤ o.toNat ∧ o.toNat < s.cfg.calHi.toNat

/-- Chunk `i` of a MEM_WRITE at `off` stores to storage address `a`: the chunk is not skipped by the password window
and `a` is one of the 8 bytes from its offset (44_dispatcher.md R187, 20_memory.md R67). -/
def ChunkStores (s : State) (off : Half) (allow : Byte) (i a : Nat) : Prop :=
  ¬PwProtected s allow (chunkOffset off i) ∧ (chunkOffset off i).toNat ≤ a ∧ a < (chunkOffset off i).toNat + 8

/-- A flag as a reply carries it: "0x00 or 0x01" (30_encoding.md R92, R97). -/
def zeroOne (b : Bool) : Byte := if b then 0x01 else 0x00

/-- `t` has sent one 0x0515 reply more than `s`: its 16 Version bytes are those of `VERSION`, then 0x00, then any
value, its two padding bytes are any value, and its challenge is that of `t` (30_encoding.md R92, 44_dispatcher.md
R185). -/
def VersionReplySent (s t : State) : Prop :=
  ∃ vers pad : List Byte,
    vers.length = 16 ∧ pad.length = 2 ∧
    (∀ k, k < 16 → k < s.cfg.version.length → byteAt vers k = byteAt s.cfg.version k) ∧
    (s.cfg.version.length < 16 → byteAt vers s.cfg.version.length = 0x00) ∧
    t.tx = s.tx ++ wireReply s ([0x15, 0x05, 0x24, 0x00] ++ vers ++
      [zeroOne s.customKeyPresent, zeroOne s.ports.lockScreen] ++ pad ++ bytesBlock t.challenge)

/-- `t` differs from `s` at most in the registers a version reply may write: `Timestamp`, `Challenge`, the logs, and
the model's own counter and outcome. -/
def OnlySessionRegistersDiffer (s t : State) : Prop :=
  t = { s with
    timestamp := t.timestamp
    challenge := t.challenge
    tx := t.tx
    ev := t.ev
    draws := t.draws
    lastOutcome := t.lastOutcome }

/-- `Challenge` after a version reply: redrawn under `ON_EACH_VERSION_REPLY`, unchanged under the other policies
(43_authenticator.md R166, 44_dispatcher.md R185). That a redraw is the four free words at the draw counter is the
model's choice (DESIGN CHOICE, log 5); the spec's draw is under no law. -/
def ChallengeAfterVersion (s t : State) : Prop :=
  (s.cfg.challengePolicy = .onEachVersionReply → t.challenge = freeBlock s.draws) ∧
    (s.cfg.challengePolicy ≠ .onEachVersionReply → t.challenge = s.challenge)

/-- Between `s` and `t` the challenge was redrawn, once, and nothing else was drawn (43_authenticator.md R166). That a
redraw is the four free words at the draw counter is the model's choice (DESIGN CHOICE, log 5). -/
def ChallengeRedrawn (s t : State) : Prop := t.challenge = freeBlock s.draws ∧ t.draws = s.draws + 4

/-- The header of a complete start marker is pending at `rd`: 0xAB then 0xCD, with at least 8 bytes pending
(41_ring_extractor.md R121 steps 1 and 2). -/
def HeaderAtRd (s : State) : Prop :=
  rbByte s s.rd = 0xAB ∧ ringByte s s.rd 1 = 0xCD ∧ 8 ≤ pend s.cfg.cap s.rd s.wr

/-- The cursors are indices of a ring whose parameters are in range. -/
def CursorsInRange (s : State) : Prop := s.cfg.Valid ∧ s.rd < s.cfg.cap ∧ s.wr < s.cfg.cap

/-- The default gate of 00_scope.md R8: `GATE_MODE = LOCKED`, with both range predicates true for all ranges. -/
def DefaultGate (p : Params) : Prop := p.gateMode = .locked ∧ p.readGated = .always ∧ p.writeGated = .always

/-- Every register but `Challenge` holds the value `Reset()` gives it (70_reset_and_hazards.md R250). `Challenge` is a
draw, which `ChallengeRedrawn` says, and the logs, `Faulted` and storage are not `Reset()`'s to write. -/
structure HoldsResetValues (t : State) : Prop where
  /-- `CustomKeyPresent`, from `P_KEYCFG`. -/
  keyPresent : t.customKeyPresent = t.ports.keyPresent
  /-- `CustomKey`, from `P_KEYCFG`. -/
  key : t.customKey = t.ports.key
  /-- `Locked <- CustomKeyPresent`. -/
  locked : t.locked = t.customKeyPresent
  /-- `FAC <- 0`. -/
  fac : t.fac = 0
  /-- `IsEncrypted <- 1`. -/
  isEncrypted : t.isEncrypted = true
  /-- `Timestamp <- TS_RESET`. -/
  timestamp : t.timestamp = t.cfg.tsReset
  /-- `rd <- 0`. -/
  rd : t.rd = 0
  /-- `wr <- 0`. -/
  wr : t.wr = 0
  /-- `WB <- WB_RESET`. -/
  wb : ∀ a, wbByte t a = byteAt t.cfg.wbReset a

end Sys2Proof.Machine
end

