-- ==== Sys2Proof/Certificates/Slice0/Obligations.lean ====
section
/-! DEFINITION. The statements for the provers. Each cites the rules of spec/ it rests on; OBLIGATIONS.json lists
them. -/

open Sys2Proof
open Sys2Proof.Machine

/-! ### Encoding -/

/-- For every well-formed command, every operand at every value, decoding its payload gives it back, whatever
retained bytes follow it in the working buffer (30_encoding.md R83 to R90). -/
def Obligations.DecodeInvertsEncode : Prop :=
  ∀ (i : Instr) (rest : List Byte), i.WellFormed = true → decode (encode i ++ rest) = .ok i

/-- Where a decoded command lies wholly in the bytes it was read from, encoding it gives those bytes back: every bit
of every field is kept. -/
def Obligations.EncodeInvertsDecode : Prop :=
  ∀ (bs : List Byte) (i : Instr), decode bs = .ok i → (encode i).length ≤ bs.length →
    encode i = bs.take (encode i).length

/-- The identifier map (30_encoding.md R99, R100) with the field places of R85 to R90: each of the ten identifiers
selects its command, every other identifier none. -/
def Obligations.IdentifierSelectsCommandAndFields : Prop :=
  ∀ bs : List Byte, 2 ≤ bs.length →
    (le16 bs 0 = 0x0514 → decode bs = .ok (.sessionStart (le16 bs 2) (le32 bs 4))) ∧
    (le16 bs 0 = 0x051B →
      decode bs = .ok (.memRead (le16 bs 2) (le16 bs 4) (byteAt bs 6) (byteAt bs 7) (le32 bs 8))) ∧
    (le16 bs 0 = 0x051D →
      decode bs = .ok (.memWrite (le16 bs 2) (le16 bs 4) (byteAt bs 6) (byteAt bs 7) (le32 bs 8)
        ((bs.drop 12).take (8 * ((byteAt bs 6).toNat / 8))))) ∧
    (le16 bs 0 = 0x051F → decode bs = .ok (.nop051F (le16 bs 2))) ∧
    (le16 bs 0 = 0x0521 → decode bs = .ok (.nop0521 (le16 bs 2))) ∧
    (le16 bs 0 = 0x0527 → decode bs = .ok (.rfStatus (le16 bs 2))) ∧
    (le16 bs 0 = 0x0529 → decode bs = .ok (.battStatus (le16 bs 2))) ∧
    (le16 bs 0 = 0x052D →
      decode bs = .ok (.authResponse (le16 bs 2)
        { w0 := le32 bs 4, w1 := le32 bs 8, w2 := le32 bs 12, w3 := le32 bs 16 })) ∧
    (le16 bs 0 = 0x052F → decode bs = .ok (.factoryReset (le16 bs 2) (le32 bs 4))) ∧
    (le16 bs 0 = 0x05DD → decode bs = .ok (.rebootBl (le16 bs 2))) ∧
    (le16 bs 0 ∉ [(0x0514 : Half), 0x051B, 0x051D, 0x051F, 0x0521, 0x0527, 0x0529, 0x052D, 0x052F, 0x05DD] →
      decode bs = .error (.unrecognised (le16 bs 0)))

/-- Payloads written out byte by byte from 30_encoding.md R85 to R90 decode to the commands they stand for. -/
def Obligations.WrittenPayloadsDecode : Prop :=
  decode [0x14, 0x05, 0x04, 0x00, 0x78, 0x56, 0x34, 0x12] = .ok (.sessionStart 4 0x12345678) ∧
  decode [0x1B, 0x05, 0x08, 0x00, 0x10, 0x00, 0x04, 0x00, 0x78, 0x56, 0x34, 0x12] =
    .ok (.memRead 8 0x0010 4 0 0x12345678) ∧
  decode [0x27, 0x05, 0x00, 0x00] = .ok (.rfStatus 0) ∧
  decode [0xDD, 0x05, 0x00, 0x00] = .ok (.rebootBl 0)

/-! ### Transport codec -/

/-- 40_codec.md R111. -/
def Obligations.ObfuscateIsInvolution : Prop := ∀ (p : Params) (bs : List Byte), obfuscate p (obfuscate p bs) = bs

/-- 40_codec.md R110: each byte is XORed with the key byte of its own position, counted from the first byte, and
nothing else changes; with the D3 default key, the rule's example. -/
def Obligations.ObfuscateXorsEachByteWithItsKeyByte : Prop :=
  (∀ (p : Params) (bs : List Byte),
    (obfuscate p bs).length = bs.length ∧
    ∀ k, k < bs.length →
      byteAt (obfuscate p bs) k = byteAt bs k ^^^ p.obfKey[k % 16]'(Nat.mod_lt k (by decide))) ∧
  obfuscate Params.defaults [0x14, 0x05] = [0x02, 0x69]

/-- 40_codec.md R114: a reply goes out as markers and length in the clear, and the codec image of the payload followed
by 0xFF 0xFF in the mode current when it is sent; nothing but `TX` is written. -/
def Obligations.ReplyBodyIsCodecImage : Prop :=
  ∀ (s : State) (payload : List Byte),
    sendReply payload s = { s with tx := s.tx ++ [0xAB, 0xCD] ++ bytes16 (BitVec.ofNat 16 payload.length) ++
      (if s.isEncrypted then obfuscate s.cfg (payload ++ [0xFF, 0xFF]) else payload ++ [0xFF, 0xFF]) ++
      [0xDC, 0xBA] }

/-! ### Ring extractor -/

/-- The scan (41_ring_extractor.md R121 steps 1 and 2, R123 to R125), one byte at a time: nothing pending; a byte that
is not 0xAB is passed; a 0xAB with fewer than 8 bytes pending waits; a 0xAB not followed by 0xCD is passed. -/
def Obligations.ScanPassesBytesOneAtATime : Prop :=
  ∀ s : State, CursorsInRange s →
    (s.rd = s.wr → tryExtract s = (.noFrame .noneEmpty, s)) ∧
    (s.rd ≠ s.wr → rbByte s s.rd ≠ 0xAB → tryExtract s = tryExtract { s with rd := (s.rd + 1) % s.cfg.cap }) ∧
    (s.rd ≠ s.wr → rbByte s s.rd = 0xAB → pend s.cfg.cap s.rd s.wr < 8 →
      tryExtract s = (.noFrame .noneIncomplete, s)) ∧
    (s.rd ≠ s.wr → rbByte s s.rd = 0xAB → 8 ≤ pend s.cfg.cap s.rd s.wr → ringByte s s.rd 1 ≠ 0xCD →
      tryExtract s = tryExtract { s with rd := (s.rd + 1) % s.cfg.cap })

/-- The checks at a start marker, in their order (60_exceptions.md R239; 41_ring_extractor.md R121 steps 3, 4 and 9):
oversize, incomplete, bad end marker, then the CRC over the payload after de-obfuscation in the mode the raw
identifier selects. Whatever the CRC says, the working buffer then begins with the body in that mode and keeps every
later byte (R130, R132, 10_state.md R25). -/
def Obligations.HeaderChecksRunInOrder : Prop :=
  ∀ (s : State) (size : Nat), HeaderAtRd s → size = (ringLe16 s s.rd 2).toNat →
    (s.cfg.cap < size + 8 → tryExtract s = (.noFrame (.noneOversize size), { s with rd := s.wr })) ∧
    (size + 8 ≤ s.cfg.cap → pend s.cfg.cap s.rd s.wr < size + 8 → tryExtract s = (.noFrame .noneIncomplete, s)) ∧
    (size + 8 ≤ s.cfg.cap → size + 8 ≤ pend s.cfg.cap s.rd s.wr →
      (ringByte s s.rd (size + 6) ≠ 0xDC ∨ ringByte s s.rd (size + 7) ≠ 0xBA) →
      tryExtract s = (.noFrame .noneBadEnd, { s with rd := s.wr })) ∧
    (size + 8 ≤ s.cfg.cap → size + 8 ≤ pend s.cfg.cap s.rd s.wr →
      ringByte s s.rd (size + 6) = 0xDC → ringByte s s.rd (size + 7) = 0xBA →
      ∀ raw body : List Byte, raw = ringBytes s (s.rd + 4) (size + 2) →
        body = (if (tryExtract s).2.isEncrypted then obfuscate s.cfg raw else raw) →
        (tryExtract s).1 =
            (if crc16 s.cfg (body.take size) = le16 body size then .ready size else .noFrame .noneCrc) ∧
          (∀ k, k < size + 2 → wbByte (tryExtract s).2 k = byteAt body k) ∧
          ∀ k, size + 2 ≤ k → wbByte (tryExtract s).2 k = wbByte s k)

/-- 40_codec.md R112, 70_reset_and_hazards.md R257: a frame that passes the end-marker check sets the codec mode by its
first two body bytes as they stand on the wire, before and whatever the CRC check; `RESUME_ID` selects encrypted,
else 0x0514 plaintext, and any other value leaves the mode. -/
def Obligations.RawIdentifierSelectsCodecMode : Prop :=
  ∀ (s : State) (size : Nat) (rawId : Half), HeaderAtRd s → size = (ringLe16 s s.rd 2).toNat →
    size + 8 ≤ s.cfg.cap → size + 8 ≤ pend s.cfg.cap s.rd s.wr →
    ringByte s s.rd (size + 6) = 0xDC → ringByte s s.rd (size + 7) = 0xBA → rawId = ringLe16 s s.rd 4 →
    (rawId = s.cfg.resumeId → (tryExtract s).2.isEncrypted = true) ∧
    (rawId ≠ s.cfg.resumeId → rawId = 0x0514 → (tryExtract s).2.isEncrypted = false) ∧
    (rawId ≠ s.cfg.resumeId → rawId ≠ 0x0514 → (tryExtract s).2.isEncrypted = s.isEncrypted)

/-- 60_exceptions.md R233: after a structural desync every pending byte is dropped by `rd <- w`, and nothing else
changes. -/
def Obligations.DesyncDiscardsAllPending : Prop :=
  ∀ (s t : State) (o : PollOutcome), tryExtract s = (.noFrame o, t) →
    (o = .noneBadEnd ∨ ∃ size, o = .noneOversize size) → t = { s with rd := s.wr }

/-- A poll that consumes a frame consumes one that lies whole in the pending span (41_ring_extractor.md R122), of at
most `CAP - 9` payload bytes (R131); it zeroes exactly that frame and leaves `rd` after it (R129). -/
def Obligations.ConsumedFrameIsZeroedExactly : Prop :=
  ∀ (s t : State) (e : Extraction), CursorsInRange s → tryExtract s = (e, t) →
    ((∃ n, e = .ready n) ∨ e = .noFrame .noneCrc) →
    ∃ j size, j + size + 8 ≤ pend s.cfg.cap s.rd s.wr ∧ size + 9 ≤ s.cfg.cap ∧
      size = (ringLe16 s (s.rd + j) 2).toNat ∧ (∀ n, e = .ready n → n = size) ∧
      ringByte s (s.rd + j) 0 = 0xAB ∧ ringByte s (s.rd + j) 1 = 0xCD ∧
      (∀ k, k < size + 8 → ringByte t (s.rd + j) k = 0x00) ∧
      (∀ a, a < s.cfg.cap → (∀ k, k < size + 8 → a ≠ (s.rd + j + k) % s.cfg.cap) → rbByte t a = rbByte s a) ∧
      t.rd = (s.rd + j + size + 8) % s.cfg.cap

/-- The cursor never passes the sampled write cursor: it advances by some number of the pending bytes, and that many
fewer are pending (10_state.md R22). -/
def Obligations.CursorStaysInPendingSpan : Prop :=
  ∀ (s t : State) (e : Extraction), CursorsInRange s → tryExtract s = (e, t) →
    ∃ j, j ≤ pend s.cfg.cap s.rd s.wr ∧ t.rd = (s.rd + j) % s.cfg.cap ∧ t.wr = s.wr ∧
      pend s.cfg.cap t.rd t.wr = pend s.cfg.cap s.rd s.wr - j

/-- What extraction writes (41_ring_extractor.md R121): `rd`, `RB`, `WB` and `IsEncrypted`. Where no frame was
consumed, `rd` alone. -/
def Obligations.ExtractorWritesOnlyItsRegisters : Prop :=
  ∀ (s t : State) (e : Extraction), tryExtract s = (e, t) →
    t = { s with rd := t.rd, rb := t.rb, wb := t.wb, isEncrypted := t.isEncrypted } ∧
    (∀ o, e = .noFrame o → o ≠ .noneCrc → t = { s with rd := t.rd })

/-- HEADLINE. A command frame that lies next in the ring is extracted, wherever the ring wraps
(41_ring_extractor.md R128, R132): for every payload a frame can carry, in either codec mode `m` that the frame's raw
identifier leaves the machine in, `READY(Size)` with the payload and its CRC in plaintext in the working buffer,
every other working-buffer byte retained, and the mode `m`. -/
def Obligations.FrameIsExtractedAtEverySplit : Prop :=
  ∀ (s : State) (m : Bool) (payload raw : List Byte), CursorsInRange s →
    payload.length + 9 ≤ s.cfg.cap →
    raw = (if m then obfuscate s.cfg (payload ++ bytes16 (crc16 s.cfg payload))
      else payload ++ bytes16 (crc16 s.cfg payload)) →
    modeAfter s.cfg.resumeId (le16 raw 0) s.isEncrypted = m →
    payload.length + 8 ≤ pend s.cfg.cap s.rd s.wr →
    RingHolds s s.rd ([0xAB, 0xCD] ++ bytes16 (BitVec.ofNat 16 payload.length) ++ raw ++ [0xDC, 0xBA]) →
    ∃ t, tryExtract s = (.ready payload.length, t) ∧
      t.rd = (s.rd + payload.length + 8) % s.cfg.cap ∧ t.isEncrypted = m ∧
      (∀ k, k < payload.length + 2 → wbByte t k = byteAt (payload ++ bytes16 (crc16 s.cfg payload)) k) ∧
      (∀ k, payload.length + 2 ≤ k → wbByte t k = wbByte s k)

/-- HEADLINE. The DMA producer and the extractor together: when nothing is pending and the link delivers a command
frame, byte by byte, into a ring at any cursor, the next extraction answers `READY` with its payload in the working
buffer (20_memory.md R72; 41_ring_extractor.md R128). The frame's body may be in either codec mode `m`, whatever the
machine's own, that the frame's raw identifier leaves the machine in (40_codec.md R112), and the machine is in `m`
after it: a plaintext SESSION_START reaches an encrypted machine, an obfuscated one a machine in plaintext mode. -/
def Obligations.DeliveredFrameIsExtracted : Prop :=
  ∀ (s : State) (m : Bool) (payload : List Byte), CursorsInRange s → s.rd = s.wr → payload.length + 9 ≤ s.cfg.cap →
    modeAfter s.cfg.resumeId (le16 (codec s.cfg m (payload ++ bytes16 (crc16 s.cfg payload))) 0) s.isEncrypted = m →
    ∃ t, tryExtract (deliver (commandFrame s.cfg m payload) s) = (.ready payload.length, t) ∧ t.isEncrypted = m ∧
      ∀ k, k < payload.length → wbByte t k = byteAt payload k

/-- A frame of exactly `CAP - 8` payload bytes never completes (70_reset_and_hazards.md R255): with its header at
`rd`, every extraction answers `NONE_INCOMPLETE` and changes nothing. -/
def Obligations.FrameOfCapMinusEightNeverCompletes : Prop :=
  ∀ s : State, CursorsInRange s → HeaderAtRd s → (ringLe16 s s.rd 2).toNat + 8 = s.cfg.cap →
    tryExtract s = (.noFrame .noneIncomplete, s)

/-! ### DMA producer -/

/-- 20_memory.md R72: `DmaStep(b)` writes `RB[wr]` and advances `wr` by one, modulo `CAP`; the rest of the ring, the
other memories and every other register are unchanged, and `rd` is not consulted. At `Faulted = 1` the run has ended
and no agent has a step (70_reset_and_hazards.md R263): the byte is passed over. -/
def Obligations.DmaStepWritesOneByte : Prop :=
  ∀ (s t : State) (b : Byte) (rest : List EnvEvent), s.agenda = .byte b :: rest → step s = .next t →
    (s.faulted = false →
      rbByte t s.wr = b ∧ (∀ a, a ≠ s.wr → rbByte t a = rbByte s a) ∧ t.wr = (s.wr + 1) % s.cfg.cap ∧
      (∀ a, wbByte t a = wbByte s a) ∧ (∀ a, storeByte t a = storeByte s a) ∧
      t = { s with rb := t.rb, wr := t.wr, agenda := rest }) ∧
    (s.faulted = true → t = { s with agenda := rest })

/-- DMA overrun (70_reset_and_hazards.md R253): when exactly `CAP - pend` bytes arrive between two polls, `wr` returns
to `rd` and every pending byte reads as absent. -/
def Obligations.OverrunHidesAllPending : Prop :=
  ∀ (s : State) (bs : List Byte), CursorsInRange s → bs.length = s.cfg.cap - pend s.cfg.cap s.rd s.wr →
    (deliver bs s).wr = s.rd ∧ (deliver bs s).rd = s.rd ∧
    tryExtract (deliver bs s) = (.noFrame .noneEmpty, deliver bs s)

/-! ### Polls and steps -/

/-- A step runs the decoded command (44_dispatcher.md R180, R197): on a tick that extracts a frame whose working buffer
decodes to `i`, the step is `exec` of `i` at the state after extraction, followed by `Reset()` where `i` is REBOOT_BL. -/
def Obligations.StepRunsDecodedCommand : Prop :=
  ∀ (s t u : State) (rest : List EnvEvent) (size : Nat) (i : Instr),
    TickNext s rest → s.faulted = false → tryExtract { s with agenda := rest } = (.ready size, t) →
    decode (wbBytes t) = .ok i → exec i t = .next u →
    step s = .next (if opcodeOf i = .rebootBl then resetRegisters u else u)

/-- A poll without a valid frame ends with the extractor's effects and its outcome (44_dispatcher.md R197): no reply, no
event, and no session register but the codec mode is written, which a frame that fails its CRC may have switched
(70_reset_and_hazards.md R257). -/
def Obligations.PollWithoutFrameEndsQuietly : Prop :=
  ∀ (s t : State) (rest : List EnvEvent) (o : PollOutcome),
    TickNext s rest → s.faulted = false → tryExtract { s with agenda := rest } = (.noFrame o, t) →
    step s = .next { t with lastOutcome := some o } ∧ t.tx = s.tx ∧ t.ev = s.ev ∧ t.timestamp = s.timestamp ∧
      t.locked = s.locked ∧ t.fac = s.fac ∧ t.challenge = s.challenge ∧
      t.customKeyPresent = s.customKeyPresent ∧ t.customKey = s.customKey

/-- 30_encoding.md R100: an unrecognised identifier selects no handler, sends no reply and has no effect beyond those of
the extractor. -/
def Obligations.UnrecognisedIdentifierHasNoEffect : Prop :=
  ∀ (s t : State) (rest : List EnvEvent) (size : Nat) (id : Half),
    TickNext s rest → s.faulted = false → tryExtract { s with agenda := rest } = (.ready size, t) →
    decode (wbBytes t) = .error (.unrecognised id) →
    step s = .next { t with lastOutcome := some .noHandler }

/-- 60_exceptions.md R230: no error stops the machine. Every step, and every command in every state, answers a next
state. -/
def Obligations.NoStepStops : Prop :=
  (∀ s : State, ∃ t, step s = .next t) ∧ ∀ (i : Instr) (s : State), ∃ t, exec i s = .next t

/-- 60_exceptions.md R236, R240, 70_reset_and_hazards.md R263: while `Faulted = 1` neither a tick nor a byte changes
anything; and `Faulted` stays 1 over every step but a power-on (10_state.md R43; that a power-on clears it is the
model's reading, log 11). -/
def Obligations.FaultedMachineIgnoresTicks : Prop :=
  (∀ (s : State) (rest : List EnvEvent), s.faulted = true →
    (s.agenda = .tick :: rest ∨ ∃ b, s.agenda = .byte b :: rest) → step s = .next { s with agenda := rest }) ∧
  (∀ s t : State, s.faulted = true → step s = .next t → (∀ rest, s.agenda ≠ .powerOn :: rest) → t.faulted = true)

/-- 44_dispatcher.md R194, 70_reset_and_hazards.md R250: a REBOOT_BL frame records `REBOOT`, sends nothing, and leaves
every register at its reset value, `Challenge` redrawn, `TX` and the earlier events kept. Two clauses are the model's
choice: which free words the redraw takes (log 5), and that storage reads after the reset as before it, where the spec
makes its content at reset a draw (20_memory.md R69; log 9). -/
def Obligations.RebootFrameResetsMachine : Prop :=
  ∀ (s t : State) (rest : List EnvEvent) (size : Nat) (l : Half),
    TickNext s rest → s.faulted = false → tryExtract { s with agenda := rest } = (.ready size, t) →
    decode (wbBytes t) = .ok (.rebootBl l) →
    ∃ u, step s = .next u ∧ HoldsResetValues u ∧ ChallengeRedrawn s u ∧ u.tx = s.tx ∧ u.ev = s.ev ++ [.reboot] ∧
      u.faulted = false ∧ u.cfg = s.cfg ∧ u.ports = s.ports ∧ u.lastOutcome = some .reboot ∧
      ∀ a, storeByte u a = storeByte s a

/-- 70_reset_and_hazards.md R250: power-on gives every register its reset value for whatever the ports present,
redraws `Challenge` (43_authenticator.md R166), and leaves `TX` and `EV` empty and `Faulted` 0. That in mid-run it
clears these is the model's reading (log 11), and which free words the redraw takes its choice (log 5). -/
def Obligations.PowerOnResetsMachine : Prop :=
  ∀ (s : State) (rest : List EnvEvent), s.agenda = .powerOn :: rest →
    ∃ u, step s = .next u ∧ HoldsResetValues u ∧ ChallengeRedrawn s u ∧ u.tx = [] ∧ u.ev = [] ∧ u.faulted = false ∧
      u.cfg = s.cfg ∧ u.ports = s.ports ∧ u.agenda = rest

/-- The state after reset holds the reset values, with nothing pending, both logs empty and `Faulted` 0
(70_reset_and_hazards.md R250, R251). -/
def Obligations.ResetStateHoldsResetValues : Prop :=
  HoldsResetValues State.reset ∧ State.reset.tx = [] ∧ State.reset.ev = [] ∧ State.reset.faulted = false

/-! ### The end of a run (70_reset_and_hazards.md R263) -/

/-- A finite run of any events from any state reaches its end: a state in which no tick is pending and the DMA producer
has no byte to deliver, or `Faulted = 1`. The events it has not taken are the last of them, and its final state is
acceptable just where `Faulted` is 0. -/
def Obligations.FiniteRunReachesItsEnd : Prop :=
  ∀ (events : List EnvEvent) (s : State), ∃ t, finiteRun events s = .next t ∧ RunHasEnded t ∧ t.agenda <:+ events ∧
    (t.AcceptableFinal ↔ t.faulted = false)

/-- A finite run that has not ended takes its next event in one step, and goes on from there with the events that
follow it. -/
def Obligations.FiniteRunTakesEventsInOrder : Prop :=
  ∀ (e : EnvEvent) (rest : List EnvEvent) (s t : State), ¬RunHasEnded { s with agenda := e :: rest } →
    step { s with agenda := e :: rest } = .next t →
    t.agenda = rest ∧ finiteRun (e :: rest) s = finiteRun rest t

/-- Once a run has ended, no number of further steps changes what is observed of it (`TX`, `EV`, the session state,
`rd`, `RB`, `Faulted`) or any byte of a memory, unless a power-on starts another (log 11); and with no event listed a
step leaves the whole state as it is. That a step of an ended run answers a next state at all is the model's form of
the end (log 19). -/
def Obligations.EndedRunIsFinal : Prop :=
  (∀ (n : Nat) (s : State), RunHasEnded s → .powerOn ∉ s.agenda →
    ∃ t : State, Host.Core.run Sys2Proof.core n s = .next t ∧ RunHasEnded t ∧ observe t = observe s ∧
      SameMemory s t) ∧
  ∀ s : State, s.agenda = [] → step s = .next s

/-! ### Commands that leave session state alone -/

/-- 44_dispatcher.md R188, R189: the two no-ops complete with no reply and no state change. -/
def Obligations.NoOpsDoNothing : Prop :=
  ∀ (l : Half) (s : State),
    exec (.nop051F l) s = .next { s with lastOutcome := some .noAction } ∧
    exec (.nop0521 l) s = .next { s with lastOutcome := some .noAction }

/-- 44_dispatcher.md R190: RF_STATUS completes in every state; its reply carries `P_RF`, and nothing but `TX`
changes. -/
def Obligations.RfStatusRepliesWithPort : Prop :=
  ∀ (l : Half) (s : State),
    exec (.rfStatus l) s = .next { s with
      tx := s.tx ++ wireReply s ([0x28, 0x05, 0x04, 0x00] ++ bytes16 s.ports.rssi ++ [s.ports.noise, s.ports.glitch])
      lastOutcome := some .replied }

/-- 44_dispatcher.md R191: BATT_STATUS completes in every state; its reply carries `P_BATT`, and nothing but `TX`
changes. -/
def Obligations.BattStatusRepliesWithPort : Prop :=
  ∀ (l : Half) (s : State),
    exec (.battStatus l) s = .next { s with
      tx := s.tx ++ wireReply s ([0x2A, 0x05, 0x04, 0x00] ++ bytes16 s.ports.voltage ++ bytes16 s.ports.current)
      lastOutcome := some .replied }

/-! ### Session commands -/

/-- 44_dispatcher.md R184, R185: SESSION_START completes wherever its field lies in the working buffer: it seeds
`Timestamp`, sends one version reply, and writes nothing else but `Challenge` under `ON_EACH_VERSION_REPLY`. Which free
words a redrawn challenge takes is the model's choice (log 5). -/
def Obligations.SessionStartSeedsAndReplies : Prop :=
  ∀ (l : Half) (ts : Word) (s : State), 8 ≤ s.cfg.wbCap →
    ∃ t, exec (.sessionStart l ts) s = .next t ∧ t.timestamp = ts ∧ t.lastOutcome = some .replied ∧ t.ev = s.ev ∧
      VersionReplySent s t ∧ ChallengeAfterVersion s t ∧ OnlySessionRegistersDiffer s t ∧ SameMemory s t

/-- 44_dispatcher.md R193: FACTORY_RESET completes wherever its field lies in the working buffer: it signals
FACTORY_DEFAULTS then PWRSAVE_EXIT, seeds `Timestamp`, sends one version reply, redraws `Challenge` under
`ON_EACH_VERSION_REPLY` only, and writes no lock state, codec mode, storage or key cache. Which free words a redrawn
challenge takes is the model's choice (log 5). -/
def Obligations.FactoryResetSignalsSeedsAndReplies : Prop :=
  ∀ (l : Half) (ts : Word) (s : State), 8 ≤ s.cfg.wbCap →
    ∃ t, exec (.factoryReset l ts) s = .next t ∧ t.timestamp = ts ∧ t.lastOutcome = some .replied ∧
      t.ev = s.ev ++ [.factoryDefaults, .pwrsaveExit] ∧ VersionReplySent s t ∧ ChallengeAfterVersion s t ∧
      OnlySessionRegistersDiffer s t ∧ SameMemory s t

/-- 44_dispatcher.md R194: the handler of REBOOT_BL completes in every state with the event `REBOOT` and no reply. -/
def Obligations.RebootHandlerSignalsOnly : Prop :=
  ∀ (l : Half) (s : State),
    exec (.rebootBl l) s = .next { s with ev := s.ev ++ [.reboot], lastOutcome := some .reboot }

/-! ### Authenticator -/

/-- 43_authenticator.md R169: the transition table of `Authenticate`, over the encryptions it compares, whatever the
prior `Locked`. -/
def Obligations.AuthenticateFollowsItsTable : Prop :=
  ∀ (s t : State) (r : Block), t = authenticate r s →
    t = { s with locked := t.locked, fac := t.fac } ∧
    (∀ customGood defaultGood : Prop,
      (customGood ↔ s.customKeyPresent = true ∧ aesEnc s.cfg s.customKey s.challenge = r) →
      (defaultGood ↔ ¬customGood ∧ aesEnc s.cfg s.cfg.defaultKey s.challenge = r) →
      (s.fac = 3 → t.locked = true ∧ t.fac = 3) ∧
      (s.fac ≠ 3 → customGood → t.locked = false ∧ t.fac = s.fac) ∧
      (s.fac ≠ 3 → defaultGood → t.locked = false ∧ t.fac = 0) ∧
      (s.fac ≠ 3 → ¬customGood → ¬defaultGood → t.locked = true ∧ t.fac = s.fac + 1))

/-- 43_authenticator.md R165: once `FAC = 3` and the device is locked, every step leaves both so, but a REBOOT_BL or a
power-on. -/
def Obligations.LockoutLastsUntilReset : Prop :=
  ∀ s t : State, s.fac = 3 → s.locked = true → step s = .next t →
    (t.fac = 3 ∧ t.locked = true) ∨ t.ev = s.ev ++ [.reboot] ∨ ∃ rest, s.agenda = .powerOn :: rest

/-- 44_dispatcher.md R192: AUTH_RESPONSE completes wherever its fields lie in the working buffer: the lock state is
that of `Authenticate`, one lock-status reply reports it (the last three payload bytes are any value), and `Challenge`
is redrawn under `AFTER_EACH_RESPONSE` only. -/
def Obligations.AuthResponseReportsLock : Prop :=
  ∀ (l : Half) (r : Block) (s : State), 20 ≤ s.cfg.wbCap →
    ∃ t, exec (.authResponse l r) s = .next t ∧
      t.locked = (authenticate r s).locked ∧ t.fac = (authenticate r s).fac ∧
      t.lastOutcome = some (if t.locked then .authFail else .replied) ∧
      (∃ pad : List Byte, pad.length = 3 ∧
        t.tx = s.tx ++ wireReply s ([0x2E, 0x05, 0x04, 0x00, zeroOne t.locked] ++ pad)) ∧
      (s.cfg.challengePolicy = .afterEachResponse → t.challenge = freeBlock (s.draws + 3)) ∧
      (s.cfg.challengePolicy ≠ .afterEachResponse → t.challenge = s.challenge) ∧
      t = { s with locked := t.locked, fac := t.fac, challenge := t.challenge, tx := t.tx, draws := t.draws,
                   lastOutcome := t.lastOutcome } ∧
      SameMemory s t

/-! ### Storage commands -/

/-- 60_exceptions.md R235, 44_dispatcher.md R181: a stale MEM_READ or MEM_WRITE ends with no reply, no storage access
and no state change, whatever its other fields. -/
def Obligations.StaleCommandChangesNothing : Prop :=
  ∀ (l off : Half) (n b : Byte) (ts : Word) (data : List Byte) (s : State), 12 ≤ s.cfg.wbCap → ts ≠ s.timestamp →
    (0x051B ∈ s.cfg.tsChecked → exec (.memRead l off n b ts) s = .next { s with lastOutcome := some .stale }) ∧
    (0x051D ∈ s.cfg.tsChecked → exec (.memWrite l off n b ts data) s = .next { s with lastOutcome := some .stale })

/-- 44_dispatcher.md R186, 43_authenticator.md R167: a denied MEM_READ completes with a reply of the normal length
whose data bytes are 0x00, and makes no storage access. `ReadIsDenied` of Safety spells R167 out, under either
`GATE_MODE`. Its Timestamp may be any where the check does not apply to it (R181). -/
def Obligations.DeniedReadRepliesZeroData : Prop :=
  ∀ (l off : Half) (n pad : Byte) (ts : Word) (s : State), ReadFieldsFit s.cfg → TimestampAccepted s 0x051B ts →
    n.toNat ≤ s.cfg.maxReadLen → ReadIsDenied s off n.toNat →
    exec (.memRead l off n pad ts) s = .next { s with
      tx := s.tx ++ wireReply s ([0x1C, 0x05] ++ bytes16 (BitVec.ofNat 16 (n.toNat + 4)) ++ bytes16 off ++ [n, 0x00] ++
        List.replicate n.toNat 0x00)
      lastOutcome := some .denied }

/-- 44_dispatcher.md R186, 20_memory.md R66: a permitted MEM_READ completes with the bytes `MemRead` returns, one for
each of the Count bytes, which under `IMAGE` are those of storage; it records one STORE_RD and writes nothing else. Its
Timestamp may be any where the check does not apply to it (R181). -/
def Obligations.PermittedReadRepliesStorage : Prop :=
  ∀ (l off : Half) (n pad : Byte) (ts : Word) (s : State), ReadFieldsFit s.cfg → TimestampAccepted s 0x051B ts →
    n.toNat ≤ s.cfg.maxReadLen → ¬ReadIsDenied s off n.toNat →
    ∃ (t : State) (data : List Byte), exec (.memRead l off n pad ts) s = .next t ∧ data.length = n.toNat ∧
      (s.cfg.storageModel = .image → ∀ k, k < n.toNat → off.toNat + k < 0x10000 →
        byteAt data k = storeByte s (off.toNat + k)) ∧
      t.tx = s.tx ++ wireReply s
        ([0x1C, 0x05] ++ bytes16 (BitVec.ofNat 16 (n.toNat + 4)) ++ bytes16 off ++ [n, 0x00] ++ data) ∧
      t.ev = s.ev ++ [.storeRd off n.toNat] ∧ t.lastOutcome = some .replied ∧
      t = { s with tx := t.tx, ev := t.ev, draws := t.draws, lastOutcome := t.lastOutcome } ∧ SameMemory s t

/-- 44_dispatcher.md R187, 43_authenticator.md R167: a denied MEM_WRITE completes with its acknowledgement; it writes
no storage byte and records no event. `WriteIsDenied` of Safety spells R167 out, under either `GATE_MODE`. Its
Timestamp may be any where the check does not apply to it (R181). -/
def Obligations.DeniedWriteIsAcknowledged : Prop :=
  ∀ (l off : Half) (n allow : Byte) (ts : Word) (data : List Byte) (s : State),
    12 + 8 * (n.toNat / 8) ≤ s.cfg.wbCap → TimestampAccepted s 0x051D ts → WriteIsDenied s off n.toNat →
    exec (.memWrite l off n allow ts data) s = .next { s with
      tx := s.tx ++ wireReply s ([0x1E, 0x05, 0x02, 0x00] ++ bytes16 off), lastOutcome := some .denied }

/-- 44_dispatcher.md R187, 20_memory.md R67: a permitted MEM_WRITE completes with its acknowledgement. Under `IMAGE`
each byte of each chunk that is not skipped is stored at its offset, and every other storage byte is unchanged (a byte
whose offset would reach 0x10000 is dropped); under `ORACLE` no storage byte changes. The ring, the working buffer and
every register but the key cache are unchanged. Its Timestamp may be any where the check does not apply to it
(R181). -/
def Obligations.PermittedWriteStoresItsChunks : Prop :=
  ∀ (l off : Half) (n allow : Byte) (ts : Word) (data : List Byte) (s : State),
    12 + 8 * (n.toNat / 8) ≤ s.cfg.wbCap → TimestampAccepted s 0x051D ts →
    data.length = 8 * (n.toNat / 8) → ¬WriteIsDenied s off n.toNat →
    ∃ t, exec (.memWrite l off n allow ts data) s = .next t ∧ t.lastOutcome = some .replied ∧
      t.tx = s.tx ++ wireReply s ([0x1E, 0x05, 0x02, 0x00] ++ bytes16 off) ∧
      (s.cfg.storageModel = .image → ∀ i a, i < n.toNat / 8 → a < 0x10000 →
        ChunkStores s off allow i a → storeByte t a = byteAt data (8 * i + (a - (chunkOffset off i).toNat))) ∧
      (∀ a, (∀ i, i < n.toNat / 8 → ¬ChunkStores s off allow i a) → storeByte t a = storeByte s a) ∧
      (∀ a, 0x10000 ≤ a → storeByte t a = storeByte s a) ∧
      (s.cfg.storageModel = .oracle → ∀ a, storeByte t a = storeByte s a) ∧
      (∀ a, rbByte t a = rbByte s a) ∧ (∀ a, wbByte t a = wbByte s a) ∧
      t = { s with tx := t.tx, ev := t.ev, store := t.store, customKeyPresent := t.customKeyPresent,
                   customKey := t.customKey, lastOutcome := t.lastOutcome }

/-- 44_dispatcher.md R187, 20_memory.md R68, R77: the events of a permitted MEM_WRITE are one STORE_WR for each chunk
that is not skipped, in order, then exactly one STORE_REINIT when some chunk starts in the calibration window of an
unlocked device, however many do; the key cache is refilled from `P_KEYCFG` then and only then. -/
def Obligations.CalibrationWriteReinitialisesOnce : Prop :=
  ∀ (l off : Half) (n allow : Byte) (ts : Word) (data : List Byte) (s t : State),
    12 + 8 * (n.toNat / 8) ≤ s.cfg.wbCap → TimestampAccepted s 0x051D ts →
    ¬WriteIsDenied s off n.toNat → exec (.memWrite l off n allow ts data) s = .next t →
    ∃ written : List OutEvent,
      written = ((List.range (n.toNat / 8)).filter fun i => decide (¬PwProtected s allow (chunkOffset off i))).map
        (fun i => .storeWr (chunkOffset off i) ((data.drop (8 * i)).take 8)) ∧
      ((s.locked = false ∧ ∃ i, i < n.toNat / 8 ∧ StartsInCalibration s (chunkOffset off i)) →
        t.ev = s.ev ++ written ++ [.storeReinit] ∧ t.customKeyPresent = s.ports.keyPresent ∧
        t.customKey = s.ports.key) ∧
      ((s.locked = true ∨ ∀ i, i < n.toNat / 8 → ¬StartsInCalibration s (chunkOffset off i)) →
        t.ev = s.ev ++ written ∧ t.customKeyPresent = s.customKeyPresent ∧ t.customKey = s.customKey)

/-- 43_authenticator.md R168: while the lock screen shows, a MEM_WRITE without the allow-password flag writes no chunk
that starts in the password window, whatever its other fields. And exactly those chunks are skipped: a MEM_WRITE that
is neither stale nor denied, its data within the working buffer, writes a chunk at `o` just where `o` is the offset of
one of its chunks and not (`PW_LO <= o < PW_HI` with `P_LOCKSCREEN = 1` and `AllowPw = 0`). -/
def Obligations.PasswordWindowIsWriteProtected : Prop :=
  (∀ (l off : Half) (n : Byte) (ts : Word) (data : List Byte) (s t : State), s.ports.lockScreen = true →
    exec (.memWrite l off n 0 ts data) s = .next t →
    ∃ new : List OutEvent, t.ev = s.ev ++ new ∧
      ∀ o d, .storeWr o d ∈ new → ¬(s.cfg.pwLo.toNat ≤ o.toNat ∧ o.toNat < s.cfg.pwHi.toNat)) ∧
  ∀ (l off : Half) (n allow : Byte) (ts : Word) (data : List Byte) (s : State),
    12 + 8 * (n.toNat / 8) ≤ s.cfg.wbCap → TimestampAccepted s 0x051D ts → ¬WriteIsDenied s off n.toNat →
    ∃ (t : State) (new : List OutEvent), exec (.memWrite l off n allow ts data) s = .next t ∧ t.ev = s.ev ++ new ∧
      ∀ o d, .storeWr o d ∈ new ↔
        (∃ i, i < n.toNat / 8 ∧ o.toNat = (off.toNat + 8 * i) % 0x10000 ∧ d = (data.drop (8 * i)).take 8) ∧
          ¬(s.cfg.pwLo.toNat ≤ o.toNat ∧ o.toNat < s.cfg.pwHi.toNat ∧ s.ports.lockScreen = true ∧ allow = 0)

/-- 60_exceptions.md R236, 44_dispatcher.md R186, R187, R196: a read longer than `MAX_READ_LEN`, a write whose data
reach past `WB_CAP`, and each of the five commands with fields past its header whose fields do, raise their Fault
before any effect, and only `Faulted` (and the recorded outcome) changes. A field past `WB_CAP` is found before the
timestamp check uses it, so there the Timestamp operand may be any; MEM_READ reads its own Timestamp field only where
the check applies to it (log 14). That a Fault is a next state is the model's reading (log 10). -/
def Obligations.OverlongCommandRaisesFault : Prop :=
  ∀ (l off : Half) (n b : Byte) (ts : Word) (r : Block) (data : List Byte) (s : State),
    (ReadFieldsFit s.cfg → TimestampAccepted s 0x051B ts → s.cfg.maxReadLen < n.toNat →
      exec (.memRead l off n b ts) s =
        .next { s with faulted := true, lastOutcome := some (.fault .readTooLong) }) ∧
    (s.cfg.wbCap < 7 ∨ ((0x051B : Half) ∈ s.cfg.tsChecked ∧ s.cfg.wbCap < 12) →
      exec (.memRead l off n b ts) s =
        .next { s with faulted := true, lastOutcome := some (.fault .wbOverread) }) ∧
    (s.cfg.wbCap < 12 →
      exec (.memWrite l off n b ts data) s =
        .next { s with faulted := true, lastOutcome := some (.fault .wbOverread) }) ∧
    (TimestampAccepted s 0x051D ts → s.cfg.wbCap < 12 + 8 * (n.toNat / 8) →
      exec (.memWrite l off n b ts data) s =
        .next { s with faulted := true, lastOutcome := some (.fault .wbOverread) }) ∧
    (s.cfg.wbCap < 8 →
      exec (.sessionStart l ts) s = .next { s with faulted := true, lastOutcome := some (.fault .wbOverread) } ∧
      exec (.factoryReset l ts) s = .next { s with faulted := true, lastOutcome := some (.fault .wbOverread) }) ∧
    (s.cfg.wbCap < 20 →
      exec (.authResponse l r) s = .next { s with faulted := true, lastOutcome := some (.fault .wbOverread) })

/-- 20_memory.md R69: under `IMAGE` a read returns the last bytes written there. -/
def Obligations.ImageReadReturnsLastWrite : Prop :=
  ∀ (s : State) (off : Half) (data : List Byte), s.cfg.storageModel = .image → data.length = 8 →
    off.toNat + 8 ≤ 0x10000 → memReadData off 8 (memWriteEffect off data s) = data

/-- HEADLINE. While the device is locked under the default gate, no step reaches storage (60_exceptions.md R242, R238):
two machines that differ only in the contents of storage take the same step, replies and events included, and end
differing only in those contents. That both draw the same values (a redrawn challenge, the filler and padding of a
reply), because their draw counters agree, is the model's choice (log 5): the spec does not say that two draws agree.
The step may be a REBOOT_BL or a power-on: that storage survives those is the model's choice (log 9; 20_memory.md R69
makes its content at reset a draw), and that a power-on clears the event log its reading (log 11). -/
def Obligations.LockedDeviceIsIsolatedFromStorage : Prop :=
  ∀ (s t : State) (m : Memory), DefaultGate s.cfg → s.locked = true → step s = .next t →
    t.store = s.store ∧ step { s with store := m } = .next { t with store := m } ∧
    ((∀ rest, s.agenda ≠ .powerOn :: rest) →
      ∃ new : List OutEvent, t.ev = s.ev ++ new ∧
        ∀ e ∈ new, e = .reboot ∨ e = .factoryDefaults ∨ e = .pwrsaveExit)

/-! ### Frames over all commands -/

/-- What each handler may write (44_dispatcher.md R183; 10_state.md R21, R22, R24, R26 to R31): no handler writes the
cursors, the ring, the working buffer, the codec mode, the parameters or the ports; only the session commands write
`Timestamp`, only AUTH_RESPONSE `Locked` and `FAC`, only MEM_WRITE storage and the key cache. -/
def Obligations.HandlersWriteOnlyTheirRegisters : Prop :=
  ∀ (i : Instr) (s t : State), exec i s = .next t →
    t.cfg = s.cfg ∧ t.rd = s.rd ∧ t.wr = s.wr ∧ t.isEncrypted = s.isEncrypted ∧ t.ports = s.ports ∧
    t.agenda = s.agenda ∧ (∀ a, rbByte t a = rbByte s a) ∧ (∀ a, wbByte t a = wbByte s a) ∧
    (opcodeOf i ≠ .sessionStart → opcodeOf i ≠ .factoryReset → t.timestamp = s.timestamp) ∧
    (opcodeOf i ≠ .authResponse → t.locked = s.locked ∧ t.fac = s.fac) ∧
    (opcodeOf i ≠ .authResponse → opcodeOf i ≠ .sessionStart → opcodeOf i ≠ .factoryReset →
      t.challenge = s.challenge) ∧
    (opcodeOf i ≠ .memWrite → t.customKeyPresent = s.customKeyPresent ∧ t.customKey = s.customKey ∧
      ∀ a, storeByte t a = storeByte s a) ∧
    (s.faulted = true → t.faulted = true)

/-- 44_dispatcher.md R198, R182: a command appends nothing to `TX`, or one reply frame whose payload has at most 263
bytes. -/
def Obligations.CommandSendsAtMostOneReply : Prop :=
  ∀ (i : Instr) (s t : State), exec i s = .next t →
    t.tx = s.tx ∨ ∃ payload : List Byte, payload.length ≤ 263 ∧ t.tx = s.tx ++ wireReply s payload

/-- 10_state.md R40, R41: `TX` and `EV` are append-only over every step but a power-on; and no step writes the
parameters (00_scope.md R8), `DefaultKey` among them (10_state.md R32). -/
def Obligations.LogsOnlyGrowAndParametersStay : Prop :=
  ∀ s t : State, step s = .next t →
    t.cfg = s.cfg ∧
    ((∀ rest, s.agenda ≠ .powerOn :: rest) → s.tx <+: t.tx ∧ s.ev <+: t.ev)

/-! ### The invariant -/

/-- HEADLINE. Every step keeps the invariant: parameters and cursors in range, the three memories in canonical form and
within their spaces, `FAC = 3` only while locked, `Faulted` exactly where a Fault was the last outcome. -/
def Obligations.StepKeepsInvariant : Prop := ∀ s t : State, s.Inv → step s = .next t → t.Inv

/-- The state after reset meets the invariant, and is safe. -/
def Obligations.ResetMeetsInvariant : Prop := State.reset.Inv ∧ State.reset.Safe
end

