-- ==== Sys2Proof/Laws/Memory.lean ====
section
/-! SUPPORT. The laws of the sparse memories: what a read answers after a write, a write of a byte string, a circular
write and a storage write; and that each of them keeps the canonical form. -/

namespace Sys2Proof.Machine

/-! ### One byte -/

@[simp] theorem Memory.lookup_put (m : Memory) (a x : Nat) (b : Byte) :
    Memory.lookup (Memory.put m a b) x = if a = x then some b else Memory.lookup m x := by
  induction m with
  | nil => rfl
  | cons c m ih =>
    obtain ⟨k, v⟩ := c
    simp only [Memory.put]
    split
    · simp only [Memory.lookup]
    · split
      · subst_vars
        simp only [Memory.lookup]
        split <;> rfl
      · simp only [Memory.lookup, ih]
        split
        · subst_vars
          simp_all
        · rfl

@[simp] theorem Memory.lookup_erase (m : Memory) (a x : Nat) :
    Memory.lookup (Memory.erase m a) x = if a = x then none else Memory.lookup m x := by
  induction m with
  | nil => simp [Memory.erase, Memory.lookup]
  | cons c m ih =>
    obtain ⟨k, v⟩ := c
    simp only [Memory.erase]
    split
    · subst_vars
      rw [ih]
      simp only [Memory.lookup]
      split <;> rfl
    · simp only [Memory.lookup, ih]
      split
      · subst_vars
        simp_all [eq_comm]
      · rfl

/-- A read after a write: the byte written there, and every other byte as before. -/
theorem Memory.read_write (blank : Nat → Option Byte) (m : Memory) (a x : Nat) (b : Byte) :
    Memory.read blank (Memory.write blank m a b) x = if a = x then some b else Memory.read blank m x := by
  unfold Memory.read Memory.write
  by_cases h : blank a = some b
  · rw [if_pos h, Memory.lookup_erase]
    by_cases hax : a = x
    · subst hax
      simpa using h
    · simp only [if_neg hax]
  · rw [if_neg h, Memory.lookup_put]
    by_cases hax : a = x
    · simp only [if_pos hax]
    · simp only [if_neg hax]

@[simp] theorem Memory.read_write_self (blank : Nat → Option Byte) (m : Memory) (a : Nat) (b : Byte) :
    Memory.read blank (Memory.write blank m a b) a = some b := by
  simp [Memory.read_write]

theorem Memory.read_write_other (blank : Nat → Option Byte) (m : Memory) (a x : Nat) (b : Byte) (h : a ≠ x) :
    Memory.read blank (Memory.write blank m a b) x = Memory.read blank m x := by
  simp [Memory.read_write, h]

/-! ### The canonical form -/

theorem Memory.rising_mono (m : Memory) (l l' : Nat) (h : l' ≤ l) (hm : Memory.rising l m = true) :
    Memory.rising l' m = true := by
  cases m with
  | nil => rfl
  | cons c m =>
    simp only [Memory.rising, Bool.and_eq_true, decide_eq_true_eq] at hm ⊢
    exact ⟨by omega, hm.2⟩

theorem Memory.rising_put (m : Memory) (l a : Nat) (b : Byte) (hl : l ≤ a) (hm : Memory.rising l m = true) :
    Memory.rising l (Memory.put m a b) = true := by
  induction m generalizing l with
  | nil => simpa [Memory.put, Memory.rising] using hl
  | cons c m ih =>
    obtain ⟨k, v⟩ := c
    simp only [Memory.rising, Bool.and_eq_true, decide_eq_true_eq] at hm
    simp only [Memory.put]
    split
    · simp only [Memory.rising, Bool.and_eq_true, decide_eq_true_eq]
      exact ⟨hl, by omega, hm.2⟩
    · split
      · subst_vars
        simp only [Memory.rising, Bool.and_eq_true, decide_eq_true_eq]
        exact ⟨hl, hm.2⟩
      · simp only [Memory.rising, Bool.and_eq_true, decide_eq_true_eq]
        exact ⟨hm.1, ih (k + 1) (by omega) hm.2⟩

theorem Memory.rising_erase (m : Memory) (l a : Nat) (hm : Memory.rising l m = true) :
    Memory.rising l (Memory.erase m a) = true := by
  induction m generalizing l with
  | nil => rfl
  | cons c m ih =>
    obtain ⟨k, v⟩ := c
    simp only [Memory.rising, Bool.and_eq_true, decide_eq_true_eq] at hm
    simp only [Memory.erase]
    split
    · exact ih l (Memory.rising_mono m (k + 1) l (by omega) hm.2)
    · simp only [Memory.rising, Bool.and_eq_true, decide_eq_true_eq]
      exact ⟨hm.1, ih (k + 1) hm.2⟩

theorem Memory.mem_put (m : Memory) (a : Nat) (b : Byte) (c : Host.Cell) (h : c ∈ Memory.put m a b) :
    c = (a, b) ∨ c ∈ m := by
  induction m with
  | nil => simpa [Memory.put] using h
  | cons d m ih =>
    obtain ⟨k, v⟩ := d
    simp only [Memory.put] at h
    split at h
    · simpa using h
    · split at h
      · rcases List.mem_cons.1 h with h | h
        · exact .inl h
        · exact .inr (List.mem_cons_of_mem _ h)
      · rcases List.mem_cons.1 h with h | h
        · exact .inr (h ▸ List.mem_cons_self)
        · rcases ih h with h | h
          · exact .inl h
          · exact .inr (List.mem_cons_of_mem _ h)

theorem Memory.mem_erase (m : Memory) (a : Nat) (c : Host.Cell) (h : c ∈ Memory.erase m a) : c ∈ m := by
  induction m with
  | nil => simp [Memory.erase] at h
  | cons d m ih =>
    obtain ⟨k, v⟩ := d
    simp only [Memory.erase] at h
    split at h
    · exact List.mem_cons_of_mem _ (ih h)
    · rcases List.mem_cons.1 h with h | h
      · exact h ▸ List.mem_cons_self
      · exact List.mem_cons_of_mem _ (ih h)

/-- The canonical form, said over entries. -/
theorem Memory.wf_iff (blank : Nat → Option Byte) (size : Nat) (m : Memory) :
    Memory.wf blank size m = true ↔
      Memory.rising 0 m = true ∧ ∀ c ∈ m, c.1 < size ∧ blank c.1 ≠ some c.2 := by
  simp [Memory.wf, List.all_eq_true]

@[simp] theorem Memory.wf_nil (blank : Nat → Option Byte) (size : Nat) : Memory.wf blank size [] = true := rfl

/-- A write inside the space keeps the canonical form. -/
theorem Memory.wf_write (blank : Nat → Option Byte) (size : Nat) (m : Memory) (a : Nat) (b : Byte) (ha : a < size)
    (hm : Memory.wf blank size m = true) : Memory.wf blank size (Memory.write blank m a b) = true := by
  rw [Memory.wf_iff] at hm ⊢
  unfold Memory.write
  split
  · exact ⟨Memory.rising_erase _ _ _ hm.1, fun c hc => hm.2 c (Memory.mem_erase _ _ _ hc)⟩
  · rename_i h
    refine ⟨Memory.rising_put _ _ _ _ (Nat.zero_le _) hm.1, fun c hc => ?_⟩
    rcases Memory.mem_put _ _ _ _ hc with rfl | hc
    · exact ⟨ha, h⟩
    · exact hm.2 c hc

/-! ### Byte strings at consecutive addresses -/

theorem byteAt_cons_zero (b : Byte) (bs : List Byte) : byteAt (b :: bs) 0 = b := rfl

theorem byteAt_cons_succ (b : Byte) (bs : List Byte) (k : Nat) : byteAt (b :: bs) (k + 1) = byteAt bs k := by
  simp [byteAt]

/-- A read after a byte string is written: inside it, its byte; outside it, as before. -/
theorem Memory.read_writeSeq (blank : Nat → Option Byte) (m : Memory) (a x : Nat) (bs : List Byte) :
    Memory.read blank (Memory.writeSeq blank m a bs) x =
      if a ≤ x ∧ x < a + bs.length then some (byteAt bs (x - a)) else Memory.read blank m x := by
  induction bs generalizing m a with
  | nil =>
    simp only [Memory.writeSeq, List.length_nil]
    rw [if_neg (by omega)]
  | cons b bs ih =>
    simp only [Memory.writeSeq, List.length_cons]
    rw [ih]
    by_cases hx : x = a
    · subst hx
      rw [if_neg (by omega), if_pos (by omega), Nat.sub_self, byteAt_cons_zero, Memory.read_write_self]
    · rw [Memory.read_write_other _ _ _ _ _ (Ne.symm hx)]
      by_cases hin : a + 1 ≤ x ∧ x < a + 1 + bs.length
      · rw [if_pos hin, if_pos (by omega)]
        obtain ⟨k, hk⟩ : ∃ k, x - a = k + 1 := ⟨x - a - 1, by omega⟩
        rw [hk, byteAt_cons_succ]
        congr 2
        omega
      · rw [if_neg hin, if_neg (by omega)]

/-- A byte string written inside the space keeps the canonical form. -/
theorem Memory.wf_writeSeq (blank : Nat → Option Byte) (size : Nat) (m : Memory) (a : Nat) (bs : List Byte)
    (ha : a + bs.length ≤ size) (hm : Memory.wf blank size m = true) :
    Memory.wf blank size (Memory.writeSeq blank m a bs) = true := by
  induction bs generalizing m a with
  | nil => exact hm
  | cons b bs ih =>
    simp only [List.length_cons] at ha
    exact ih _ _ (by omega) (Memory.wf_write _ _ _ _ _ (by omega) hm)

/-! ### Circular writes -/

/-- A circular write keeps the canonical form. -/
theorem wf_ringWriteSeq (cap : Nat) (hcap : 0 < cap) (m : Memory) (base : Nat) (bs : List Byte)
    (hm : Memory.wf ringBlank cap m = true) : Memory.wf ringBlank cap (ringWriteSeq cap m base bs) = true := by
  induction bs generalizing m base with
  | nil => exact hm
  | cons b bs ih => exact ih _ _ (Memory.wf_write _ _ _ _ _ (Nat.mod_lt _ hcap) hm)

/-- A circular write leaves every position outside it. -/
theorem read_ringWriteSeq_outside (cap : Nat) (m : Memory) (base x : Nat) (bs : List Byte)
    (h : ∀ k, k < bs.length → x ≠ (base + k) % cap) :
    Memory.read ringBlank (ringWriteSeq cap m base bs) x = Memory.read ringBlank m x := by
  induction bs generalizing m base with
  | nil => rfl
  | cons b bs ih =>
    simp only [ringWriteSeq]
    rw [ih]
    · exact Memory.read_write_other _ _ _ _ _ (fun hx => h 0 (by simp) (by simpa [ring] using hx.symm))
    · intro k hk hx
      exact h (k + 1) (by simpa using hk) (by rw [hx, Nat.add_assoc, Nat.add_comm 1 k])

/-- Two positions less than `cap` apart are the same ring index only when they are the same. -/
theorem ring_inj (cap base i j : Nat) (hi : i < cap) (hj : j < cap) (h : (base + i) % cap = (base + j) % cap) :
    i = j := by
  have hi' := Nat.mod_eq_of_lt hi
  have hj' := Nat.mod_eq_of_lt hj
  have : i ≡ j [MOD cap] := Nat.ModEq.add_left_cancel' base h
  unfold Nat.ModEq at this
  omega

/-- A circular write no longer than the ring puts each of its bytes at its position. -/
theorem read_ringWriteSeq_inside (cap : Nat) (m : Memory) (base k : Nat) (bs : List Byte) (hlen : bs.length ≤ cap)
    (hk : k < bs.length) :
    Memory.read ringBlank (ringWriteSeq cap m base bs) ((base + k) % cap) = some (byteAt bs k) := by
  induction bs generalizing m base k with
  | nil => simp at hk
  | cons b bs ih =>
    simp only [List.length_cons] at hlen hk
    simp only [ringWriteSeq]
    cases k with
    | zero =>
      rw [read_ringWriteSeq_outside]
      · simp [ring, byteAt_cons_zero]
      · intro j hj hx
        have := ring_inj cap base 0 (1 + j) (by omega) (by omega) (by simpa [Nat.add_assoc] using hx)
        omega
    | succ k =>
      have h1 : base + (k + 1) = base + 1 + k := by omega
      rw [h1, ih _ _ _ (by omega) (by omega), byteAt_cons_succ]

/-! ### Storage writes -/

/-- A storage write keeps the canonical form: a byte past the space is dropped. -/
theorem wf_storeWriteSeq (m : Memory) (a : Nat) (bs : List Byte) (hm : Memory.wf storeBlank storeSize m = true) :
    Memory.wf storeBlank storeSize (storeWriteSeq m a bs) = true := by
  induction bs generalizing m a with
  | nil => exact hm
  | cons b bs ih =>
    apply ih
    split
    · rename_i h
      exact Memory.wf_write _ _ _ _ _ h hm
    · exact hm

/-- A read after a storage write: inside it and inside the space, its byte; elsewhere as before. -/
theorem read_storeWriteSeq (m : Memory) (a x : Nat) (bs : List Byte) :
    Memory.read storeBlank (storeWriteSeq m a bs) x =
      if a ≤ x ∧ x < a + bs.length ∧ x < storeSize then some (byteAt bs (x - a)) else Memory.read storeBlank m x := by
  induction bs generalizing m a with
  | nil =>
    simp only [storeWriteSeq, List.length_nil]
    rw [if_neg (by omega)]
  | cons b bs ih =>
    simp only [storeWriteSeq, List.length_cons]
    rw [ih]
    by_cases hx : x = a
    · subst hx
      rw [if_neg (by omega)]
      by_cases hs : x < storeSize
      · rw [if_pos hs, if_pos (by omega), Nat.sub_self, byteAt_cons_zero, Memory.read_write_self]
      · rw [if_neg hs, if_neg (by omega)]
    · have hread : Memory.read storeBlank (if a < storeSize then Memory.write storeBlank m a b else m) x =
          Memory.read storeBlank m x := by
        split
        · exact Memory.read_write_other _ _ _ _ _ (Ne.symm hx)
        · rfl
      rw [hread]
      by_cases hin : a + 1 ≤ x ∧ x < a + 1 + bs.length ∧ x < storeSize
      · rw [if_pos hin, if_pos (by omega)]
        obtain ⟨k, hk⟩ : ∃ k, x - a = k + 1 := ⟨x - a - 1, by omega⟩
        rw [hk, byteAt_cons_succ]
        congr 2
        omega
      · rw [if_neg hin, if_neg (by omega)]

/-! ### Reset -/

/-- The three memories of the state after reset list nothing, so they are in canonical form. -/
theorem reset_memories_wf :
    Memory.wf ringBlank State.reset.cfg.cap State.reset.rb = true ∧
      Memory.wf (workBlank State.reset.cfg) State.reset.cfg.wbCap State.reset.wb = true ∧
      Memory.wf storeBlank storeSize State.reset.store = true := ⟨rfl, rfl, rfl⟩

end Sys2Proof.Machine
end

