-- ==== Sys2Proof/Laws/Bytes.lean ====
section
/-! SUPPORT. Field reads and byte encodings undo each other; bytes of appended strings; the bytes of the machine's
memories after an update. -/

namespace Sys2Proof

/-! ### Little-endian fields -/

theorem append_extract16 (v : Half) : v.extractLsb' 8 8 ++ v.extractLsb' 0 8 = v := by
  apply BitVec.eq_of_getLsbD_eq
  intro i hi
  simp only [BitVec.getLsbD_append, BitVec.getLsbD_extractLsb']
  by_cases h : i < 8
  · simp [h]
  · have : i - 8 < 8 := by omega
    have h2 : 8 + (i - 8) = i := by omega
    simp [h, this, h2]

theorem append_extract32 (v : Word) :
    v.extractLsb' 24 8 ++ v.extractLsb' 16 8 ++ v.extractLsb' 8 8 ++ v.extractLsb' 0 8 = v := by
  apply BitVec.eq_of_getLsbD_eq
  intro i hi
  simp only [BitVec.getLsbD_append, BitVec.getLsbD_extractLsb']
  by_cases h : i < 8
  · simp [h]
  · by_cases h1 : i - 8 < 8
    · have h2 : 8 + (i - 8) = i := by omega
      simp [h, h1, h2]
    · by_cases h3 : i - 8 - 8 < 8
      · have h2 : 16 + (i - 8 - 8) = i := by omega
        simp [h, h1, h3, h2]
      · have h4 : i - 8 - 8 - 8 < 8 := by omega
        have h2 : 24 + (i - 8 - 8 - 8) = i := by omega
        simp [h, h1, h3, h4, h2]

/-- `le16` reads back what `bytes16` wrote. -/
theorem le16_bytes16 (v : Half) (rest : List Byte) : le16 (bytes16 v ++ rest) 0 = v := append_extract16 v

/-- `le32` reads back what `bytes32` wrote. -/
theorem le32_bytes32 (v : Word) (rest : List Byte) : le32 (bytes32 v ++ rest) 0 = v := append_extract32 v

/-- The low byte of a value with `y` below `x`. -/
theorem extract_append_low {w : Nat} (x : BitVec w) (y : Byte) : (x ++ y).extractLsb' 0 8 = y := by
  apply BitVec.eq_of_getLsbD_eq
  intro i h
  simp [BitVec.getLsbD_append, h]

/-- A byte above the lowest of a value with `y` below `x` is a byte of `x`. -/
theorem extract_append_high {w : Nat} (x : BitVec w) (y : Byte) (k : Nat) :
    (x ++ y).extractLsb' (8 + k) 8 = x.extractLsb' k 8 := by
  apply BitVec.eq_of_getLsbD_eq
  intro i h
  have h1 : ¬ (8 + k + i < 8) := by omega
  have h2 : 8 + k + i - 8 = k + i := by omega
  simp [BitVec.getLsbD_append, h, h1, h2]

theorem extract_all (x : Byte) : x.extractLsb' 0 8 = x := by
  apply BitVec.eq_of_getLsbD_eq
  intro i h
  simp [h]

theorem bytes16_append (hi lo : Byte) : bytes16 (hi ++ lo) = [lo, hi] := by
  have h0 := extract_append_low hi lo
  have h1 := (extract_append_high hi lo 0).trans (extract_all hi)
  exact congrArg₂ (fun x y => [x, y]) h0 h1

theorem bytes32_append (b3 b2 b1 b0 : Byte) : bytes32 (b3 ++ b2 ++ b1 ++ b0) = [b0, b1, b2, b3] := by
  have h0 := extract_append_low (b3 ++ b2 ++ b1) b0
  have h1 := (extract_append_high (b3 ++ b2 ++ b1) b0 0).trans (extract_append_low (b3 ++ b2) b1)
  have h2 := ((extract_append_high (b3 ++ b2 ++ b1) b0 8).trans (extract_append_high (b3 ++ b2) b1 0)).trans
    (extract_append_low b3 b2)
  have h3 := (((extract_append_high (b3 ++ b2 ++ b1) b0 16).trans (extract_append_high (b3 ++ b2) b1 8)).trans
    (extract_append_high b3 b2 0)).trans (extract_all b3)
  exact congrArg₂ (fun x y => x ++ y) (congrArg₂ (fun x y => [x, y]) h0 h1) (congrArg₂ (fun x y => [x, y]) h2 h3)

/-- `bytes16` writes back what `le16` read. -/
theorem bytes16_le16 (bs : List Byte) (i : Nat) : bytes16 (le16 bs i) = [byteAt bs i, byteAt bs (i + 1)] :=
  bytes16_append _ _

/-- `bytes32` writes back what `le32` read. -/
theorem bytes32_le32 (bs : List Byte) (i : Nat) :
    bytes32 (le32 bs i) = [byteAt bs i, byteAt bs (i + 1), byteAt bs (i + 2), byteAt bs (i + 3)] :=
  bytes32_append _ _ _ _

@[simp] theorem length_bytes16 (v : Half) : (bytes16 v).length = 2 := rfl

@[simp] theorem length_bytes32 (v : Word) : (bytes32 v).length = 4 := rfl

@[simp] theorem length_bytesBlock (b : Block) : (bytesBlock b).length = 16 := rfl

@[simp] theorem length_freeBytes (d n : Nat) : (freeBytes d n).length = n := by simp [freeBytes]

/-! ### Bytes of appended strings -/

theorem byteAt_append_left (a b : List Byte) (k : Nat) (h : k < a.length) : byteAt (a ++ b) k = byteAt a k :=
  List.getD_append a b 0 k h

theorem byteAt_append_right (a b : List Byte) (k : Nat) (h : a.length ≤ k) :
    byteAt (a ++ b) k = byteAt b (k - a.length) :=
  List.getD_append_right a b 0 k h

/-- Byte `n + k` of a string is byte `k` of what follows its first `n` bytes. -/
theorem byteAt_drop (bs : List Byte) (n k : Nat) : byteAt (bs.drop n) k = byteAt bs (n + k) := by
  simp [byteAt, List.getD_eq_getElem?_getD]

theorem byteAt_take (bs : List Byte) (n k : Nat) (h : k < n) : byteAt (bs.take n) k = byteAt bs k := by
  simp [byteAt, List.getD_eq_getElem?_getD, h]

theorem byteAt_map_range (f : Nat → Byte) (n k : Nat) (h : k < n) : byteAt ((List.range n).map f) k = f k := by
  simp [byteAt, List.getD_eq_getElem?_getD, h]

@[simp] theorem byteAt_replicate_zero (n k : Nat) : byteAt (List.replicate n 0) k = 0 := by
  unfold byteAt
  rw [List.getD_eq_getElem?_getD, List.getElem?_replicate]
  split <;> rfl

/-- Two byte strings of one length with the same bytes are the same. -/
theorem bytes_ext (a b : List Byte) (hl : a.length = b.length) (h : ∀ k, k < a.length → byteAt a k = byteAt b k) :
    a = b := by
  apply List.ext_getElem hl
  intro k h1 h2
  have := h k h1
  simpa [byteAt, List.getD_eq_getElem?_getD, h1, h2] using this

/-- The first two bytes of a string of at least two are `bytes16` of its field 0. -/
theorem le16_eq_of_take (bs : List Byte) (lo hi : Byte) (rest : List Byte) (h : bs = lo :: hi :: rest) :
    le16 bs 0 = hi ++ lo := by
  subst h
  rfl

/-! ### The bytes of the machine's memories after an update -/

namespace Machine

/-- A memory read is decided by the memory and, for the working buffer, by the parameters. -/
theorem rbByte_congr {s t : State} (h : t.rb = s.rb) (a : Nat) : rbByte t a = rbByte s a := by
  simp [rbByte, h]

theorem wbByte_congr {s t : State} (h : t.wb = s.wb) (hc : t.cfg = s.cfg) (a : Nat) : wbByte t a = wbByte s a := by
  simp [wbByte, h, hc]

theorem storeByte_congr {s t : State} (h : t.store = s.store) (a : Nat) : storeByte t a = storeByte s a := by
  simp [storeByte, h]

theorem wbBytes_congr {s t : State} (h : t.wb = s.wb) (hc : t.cfg = s.cfg) : wbBytes t = wbBytes s := by
  unfold wbBytes
  rw [hc]
  exact List.map_congr_left fun a _ => wbByte_congr h hc a

@[simp] theorem length_wbBytes (s : State) : (wbBytes s).length = s.cfg.wbCap := by simp [wbBytes]

@[simp] theorem length_ringBytes (s : State) (r n : Nat) : (ringBytes s r n).length = n := by simp [ringBytes]

/-- A byte of the working buffer read whole. -/
theorem byteAt_wbBytes (s : State) (k : Nat) (h : k < s.cfg.wbCap) : byteAt (wbBytes s) k = wbByte s k :=
  byteAt_map_range _ _ _ h

/-- A byte of a run of ring bytes. -/
theorem byteAt_ringBytes (s : State) (r n k : Nat) (h : k < n) : byteAt (ringBytes s r n) k = ringByte s r k :=
  byteAt_map_range _ _ _ h

/-- A ring position reached in two moves. -/
theorem ringByte_add (s : State) (r j k : Nat) : ringByte s (r + j) k = ringByte s r (j + k) := by
  simp [ringByte, Nat.add_assoc]

/-- A ring position may be reduced before it is moved from. -/
theorem ringByte_mod (s : State) (r k : Nat) : ringByte s (r % s.cfg.cap) k = ringByte s r k := by
  simp [ringByte, ring, Nat.add_mod]

/-- The byte a working-buffer write leaves. -/
theorem wbByte_writeSeq (s : State) (bs : List Byte) (k : Nat) :
    (Memory.read (workBlank s.cfg) (Memory.writeSeq (workBlank s.cfg) s.wb 0 bs) k).getD 0 =
      if k < bs.length then byteAt bs k else wbByte s k := by
  rw [Memory.read_writeSeq]
  by_cases h : k < bs.length
  · simp [h]
  · simp [h, wbByte]

end Machine

end Sys2Proof
end

