-- ==== Sys2Proof/Laws/Codec.lean ====
section
/-! SUPPORT. The codec over strings: lengths, appended strings, single bytes of a suffix; and the lengths of frames. -/

namespace Sys2Proof.Machine

@[simp] theorem length_obfuscateFrom (p : Params) (k : Nat) (bs : List Byte) :
    (obfuscateFrom p k bs).length = bs.length := by
  induction bs generalizing k with
  | nil => rfl
  | cons b bs ih => simp [obfuscateFrom, ih]

/-- The key index goes on across appended strings. -/
theorem obfuscateFrom_append (p : Params) (k : Nat) (a b : List Byte) :
    obfuscateFrom p k (a ++ b) = obfuscateFrom p k a ++ obfuscateFrom p (k + a.length) b := by
  induction a generalizing k with
  | nil => rfl
  | cons x a ih =>
    simp only [List.cons_append, obfuscateFrom, List.length_cons, ih]
    congr 3
    omega

/-- A byte of an obfuscated string is the byte XORed with the key byte of its position. -/
theorem byteAt_obfuscateFrom (p : Params) (k j : Nat) (bs : List Byte) (h : j < bs.length) :
    byteAt (obfuscateFrom p k bs) j = byteAt bs j ^^^ keyByte p (k + j) := by
  induction bs generalizing k j with
  | nil => simp at h
  | cons b bs ih =>
    cases j with
    | zero => rfl
    | succ j =>
      simp only [obfuscateFrom, byteAt_cons_succ]
      rw [ih (k + 1) j (by simpa using h)]
      congr 2
      omega

@[simp] theorem length_codec (p : Params) (m : Bool) (bs : List Byte) : (codec p m bs).length = bs.length := by
  unfold codec obfuscate
  split <;> simp

@[simp] theorem length_footer (p : Params) (m : Bool) (n : Nat) : (footer p m n).length = 2 := by
  unfold footer
  split <;> rfl

@[simp] theorem length_replyFrame (p : Params) (m : Bool) (bs : List Byte) :
    (replyFrame p m bs).length = bs.length + 8 := by
  simp [replyFrame, startMarker, endMarker]
  omega

@[simp] theorem length_commandFrame (p : Params) (m : Bool) (bs : List Byte) :
    (commandFrame p m bs).length = bs.length + 8 := by
  simp [commandFrame, startMarker, endMarker]
  omega

/-- The bytes of a frame by position: markers, length, body, end marker. -/
theorem byteAt_frame (n : Half) (raw : List Byte) (f : List Byte)
    (hf : f = [0xAB, 0xCD] ++ bytes16 n ++ raw ++ [0xDC, 0xBA]) :
    byteAt f 0 = 0xAB ∧ byteAt f 1 = 0xCD ∧ byteAt f 2 = n.extractLsb' 0 8 ∧ byteAt f 3 = n.extractLsb' 8 8 ∧
      (∀ k, k < raw.length → byteAt f (4 + k) = byteAt raw k) ∧ byteAt f (4 + raw.length) = 0xDC ∧
      byteAt f (5 + raw.length) = 0xBA := by
  have h : f = ([0xAB, 0xCD, n.extractLsb' 0 8, n.extractLsb' 8 8] : List Byte) ++ (raw ++ [0xDC, 0xBA]) := by
    simp [hf, bytes16]
  subst h
  refine ⟨rfl, rfl, rfl, rfl, fun k hk => ?_, ?_, ?_⟩
  · rw [byteAt_append_right _ _ _ (by simp), byteAt_append_left _ _ _ (by simpa using hk)]
    congr 1
    simp
  · rw [byteAt_append_right _ _ _ (by simp), byteAt_append_right _ _ _ (by simp)]
    simp [byteAt]
  · rw [byteAt_append_right _ _ _ (by simp; omega), byteAt_append_right _ _ _ (by simp; omega)]
    have h1 : 5 + raw.length - ([0xAB, 0xCD, n.extractLsb' 0 8, n.extractLsb' 8 8] : List Byte).length - raw.length =
        1 := by
      simp
      omega
    rw [h1]
    rfl

end Sys2Proof.Machine
end

