-- ==== Sys2Proof/Laws/State.lean ====
section
/-! SUPPORT. One lemma per field per update of State: what each named update writes and what it leaves. -/

namespace Sys2Proof.Machine

/-! ### emit -/

@[simp] theorem emit_cfg (bytes : List Byte) (s : State) : (emit bytes s).cfg = s.cfg := rfl
@[simp] theorem emit_rd (bytes : List Byte) (s : State) : (emit bytes s).rd = s.rd := rfl
@[simp] theorem emit_rb (bytes : List Byte) (s : State) : (emit bytes s).rb = s.rb := rfl
@[simp] theorem emit_wr (bytes : List Byte) (s : State) : (emit bytes s).wr = s.wr := rfl
@[simp] theorem emit_wb (bytes : List Byte) (s : State) : (emit bytes s).wb = s.wb := rfl
@[simp] theorem emit_isEncrypted (bytes : List Byte) (s : State) : (emit bytes s).isEncrypted = s.isEncrypted := rfl
@[simp] theorem emit_timestamp (bytes : List Byte) (s : State) : (emit bytes s).timestamp = s.timestamp := rfl
@[simp] theorem emit_locked (bytes : List Byte) (s : State) : (emit bytes s).locked = s.locked := rfl
@[simp] theorem emit_fac (bytes : List Byte) (s : State) : (emit bytes s).fac = s.fac := rfl
@[simp] theorem emit_challenge (bytes : List Byte) (s : State) : (emit bytes s).challenge = s.challenge := rfl
@[simp] theorem emit_customKeyPresent (bytes : List Byte) (s : State) : (emit bytes s).customKeyPresent = s.customKeyPresent := rfl
@[simp] theorem emit_customKey (bytes : List Byte) (s : State) : (emit bytes s).customKey = s.customKey := rfl
@[simp] theorem emit_faulted (bytes : List Byte) (s : State) : (emit bytes s).faulted = s.faulted := rfl
@[simp] theorem emit_tx (bytes : List Byte) (s : State) : (emit bytes s).tx = s.tx ++ bytes := rfl
@[simp] theorem emit_ev (bytes : List Byte) (s : State) : (emit bytes s).ev = s.ev := rfl
@[simp] theorem emit_store (bytes : List Byte) (s : State) : (emit bytes s).store = s.store := rfl
@[simp] theorem emit_ports (bytes : List Byte) (s : State) : (emit bytes s).ports = s.ports := rfl
@[simp] theorem emit_draws (bytes : List Byte) (s : State) : (emit bytes s).draws = s.draws := rfl
@[simp] theorem emit_lastOutcome (bytes : List Byte) (s : State) : (emit bytes s).lastOutcome = s.lastOutcome := rfl
@[simp] theorem emit_agenda (bytes : List Byte) (s : State) : (emit bytes s).agenda = s.agenda := rfl

/-! ### signal -/

@[simp] theorem signal_cfg (e : OutEvent) (s : State) : (signal e s).cfg = s.cfg := rfl
@[simp] theorem signal_rd (e : OutEvent) (s : State) : (signal e s).rd = s.rd := rfl
@[simp] theorem signal_rb (e : OutEvent) (s : State) : (signal e s).rb = s.rb := rfl
@[simp] theorem signal_wr (e : OutEvent) (s : State) : (signal e s).wr = s.wr := rfl
@[simp] theorem signal_wb (e : OutEvent) (s : State) : (signal e s).wb = s.wb := rfl
@[simp] theorem signal_isEncrypted (e : OutEvent) (s : State) : (signal e s).isEncrypted = s.isEncrypted := rfl
@[simp] theorem signal_timestamp (e : OutEvent) (s : State) : (signal e s).timestamp = s.timestamp := rfl
@[simp] theorem signal_locked (e : OutEvent) (s : State) : (signal e s).locked = s.locked := rfl
@[simp] theorem signal_fac (e : OutEvent) (s : State) : (signal e s).fac = s.fac := rfl
@[simp] theorem signal_challenge (e : OutEvent) (s : State) : (signal e s).challenge = s.challenge := rfl
@[simp] theorem signal_customKeyPresent (e : OutEvent) (s : State) : (signal e s).customKeyPresent = s.customKeyPresent := rfl
@[simp] theorem signal_customKey (e : OutEvent) (s : State) : (signal e s).customKey = s.customKey := rfl
@[simp] theorem signal_faulted (e : OutEvent) (s : State) : (signal e s).faulted = s.faulted := rfl
@[simp] theorem signal_tx (e : OutEvent) (s : State) : (signal e s).tx = s.tx := rfl
@[simp] theorem signal_ev (e : OutEvent) (s : State) : (signal e s).ev = s.ev ++ [e] := rfl
@[simp] theorem signal_store (e : OutEvent) (s : State) : (signal e s).store = s.store := rfl
@[simp] theorem signal_ports (e : OutEvent) (s : State) : (signal e s).ports = s.ports := rfl
@[simp] theorem signal_draws (e : OutEvent) (s : State) : (signal e s).draws = s.draws := rfl
@[simp] theorem signal_lastOutcome (e : OutEvent) (s : State) : (signal e s).lastOutcome = s.lastOutcome := rfl
@[simp] theorem signal_agenda (e : OutEvent) (s : State) : (signal e s).agenda = s.agenda := rfl

/-! ### spendDraws -/

@[simp] theorem spendDraws_cfg (n : Nat) (s : State) : (spendDraws n s).cfg = s.cfg := rfl
@[simp] theorem spendDraws_rd (n : Nat) (s : State) : (spendDraws n s).rd = s.rd := rfl
@[simp] theorem spendDraws_rb (n : Nat) (s : State) : (spendDraws n s).rb = s.rb := rfl
@[simp] theorem spendDraws_wr (n : Nat) (s : State) : (spendDraws n s).wr = s.wr := rfl
@[simp] theorem spendDraws_wb (n : Nat) (s : State) : (spendDraws n s).wb = s.wb := rfl
@[simp] theorem spendDraws_isEncrypted (n : Nat) (s : State) : (spendDraws n s).isEncrypted = s.isEncrypted := rfl
@[simp] theorem spendDraws_timestamp (n : Nat) (s : State) : (spendDraws n s).timestamp = s.timestamp := rfl
@[simp] theorem spendDraws_locked (n : Nat) (s : State) : (spendDraws n s).locked = s.locked := rfl
@[simp] theorem spendDraws_fac (n : Nat) (s : State) : (spendDraws n s).fac = s.fac := rfl
@[simp] theorem spendDraws_challenge (n : Nat) (s : State) : (spendDraws n s).challenge = s.challenge := rfl
@[simp] theorem spendDraws_customKeyPresent (n : Nat) (s : State) : (spendDraws n s).customKeyPresent = s.customKeyPresent := rfl
@[simp] theorem spendDraws_customKey (n : Nat) (s : State) : (spendDraws n s).customKey = s.customKey := rfl
@[simp] theorem spendDraws_faulted (n : Nat) (s : State) : (spendDraws n s).faulted = s.faulted := rfl
@[simp] theorem spendDraws_tx (n : Nat) (s : State) : (spendDraws n s).tx = s.tx := rfl
@[simp] theorem spendDraws_ev (n : Nat) (s : State) : (spendDraws n s).ev = s.ev := rfl
@[simp] theorem spendDraws_store (n : Nat) (s : State) : (spendDraws n s).store = s.store := rfl
@[simp] theorem spendDraws_ports (n : Nat) (s : State) : (spendDraws n s).ports = s.ports := rfl
@[simp] theorem spendDraws_draws (n : Nat) (s : State) : (spendDraws n s).draws = s.draws + n := rfl
@[simp] theorem spendDraws_lastOutcome (n : Nat) (s : State) : (spendDraws n s).lastOutcome = s.lastOutcome := rfl
@[simp] theorem spendDraws_agenda (n : Nat) (s : State) : (spendDraws n s).agenda = s.agenda := rfl

/-! ### finish -/

@[simp] theorem finish_cfg (o : PollOutcome) (s : State) : (finish o s).cfg = s.cfg := rfl
@[simp] theorem finish_rd (o : PollOutcome) (s : State) : (finish o s).rd = s.rd := rfl
@[simp] theorem finish_rb (o : PollOutcome) (s : State) : (finish o s).rb = s.rb := rfl
@[simp] theorem finish_wr (o : PollOutcome) (s : State) : (finish o s).wr = s.wr := rfl
@[simp] theorem finish_wb (o : PollOutcome) (s : State) : (finish o s).wb = s.wb := rfl
@[simp] theorem finish_isEncrypted (o : PollOutcome) (s : State) : (finish o s).isEncrypted = s.isEncrypted := rfl
@[simp] theorem finish_timestamp (o : PollOutcome) (s : State) : (finish o s).timestamp = s.timestamp := rfl
@[simp] theorem finish_locked (o : PollOutcome) (s : State) : (finish o s).locked = s.locked := rfl
@[simp] theorem finish_fac (o : PollOutcome) (s : State) : (finish o s).fac = s.fac := rfl
@[simp] theorem finish_challenge (o : PollOutcome) (s : State) : (finish o s).challenge = s.challenge := rfl
@[simp] theorem finish_customKeyPresent (o : PollOutcome) (s : State) : (finish o s).customKeyPresent = s.customKeyPresent := rfl
@[simp] theorem finish_customKey (o : PollOutcome) (s : State) : (finish o s).customKey = s.customKey := rfl
@[simp] theorem finish_faulted (o : PollOutcome) (s : State) : (finish o s).faulted = s.faulted := rfl
@[simp] theorem finish_tx (o : PollOutcome) (s : State) : (finish o s).tx = s.tx := rfl
@[simp] theorem finish_ev (o : PollOutcome) (s : State) : (finish o s).ev = s.ev := rfl
@[simp] theorem finish_store (o : PollOutcome) (s : State) : (finish o s).store = s.store := rfl
@[simp] theorem finish_ports (o : PollOutcome) (s : State) : (finish o s).ports = s.ports := rfl
@[simp] theorem finish_draws (o : PollOutcome) (s : State) : (finish o s).draws = s.draws := rfl
@[simp] theorem finish_lastOutcome (o : PollOutcome) (s : State) : (finish o s).lastOutcome = some o := rfl
@[simp] theorem finish_agenda (o : PollOutcome) (s : State) : (finish o s).agenda = s.agenda := rfl

/-! ### raiseFault -/

@[simp] theorem raiseFault_cfg (r : Fault) (s : State) : (raiseFault r s).cfg = s.cfg := rfl
@[simp] theorem raiseFault_rd (r : Fault) (s : State) : (raiseFault r s).rd = s.rd := rfl
@[simp] theorem raiseFault_rb (r : Fault) (s : State) : (raiseFault r s).rb = s.rb := rfl
@[simp] theorem raiseFault_wr (r : Fault) (s : State) : (raiseFault r s).wr = s.wr := rfl
@[simp] theorem raiseFault_wb (r : Fault) (s : State) : (raiseFault r s).wb = s.wb := rfl
@[simp] theorem raiseFault_isEncrypted (r : Fault) (s : State) : (raiseFault r s).isEncrypted = s.isEncrypted := rfl
@[simp] theorem raiseFault_timestamp (r : Fault) (s : State) : (raiseFault r s).timestamp = s.timestamp := rfl
@[simp] theorem raiseFault_locked (r : Fault) (s : State) : (raiseFault r s).locked = s.locked := rfl
@[simp] theorem raiseFault_fac (r : Fault) (s : State) : (raiseFault r s).fac = s.fac := rfl
@[simp] theorem raiseFault_challenge (r : Fault) (s : State) : (raiseFault r s).challenge = s.challenge := rfl
@[simp] theorem raiseFault_customKeyPresent (r : Fault) (s : State) : (raiseFault r s).customKeyPresent = s.customKeyPresent := rfl
@[simp] theorem raiseFault_customKey (r : Fault) (s : State) : (raiseFault r s).customKey = s.customKey := rfl
@[simp] theorem raiseFault_faulted (r : Fault) (s : State) : (raiseFault r s).faulted = true := rfl
@[simp] theorem raiseFault_tx (r : Fault) (s : State) : (raiseFault r s).tx = s.tx := rfl
@[simp] theorem raiseFault_ev (r : Fault) (s : State) : (raiseFault r s).ev = s.ev := rfl
@[simp] theorem raiseFault_store (r : Fault) (s : State) : (raiseFault r s).store = s.store := rfl
@[simp] theorem raiseFault_ports (r : Fault) (s : State) : (raiseFault r s).ports = s.ports := rfl
@[simp] theorem raiseFault_draws (r : Fault) (s : State) : (raiseFault r s).draws = s.draws := rfl
@[simp] theorem raiseFault_lastOutcome (r : Fault) (s : State) : (raiseFault r s).lastOutcome = some (.fault r) := rfl
@[simp] theorem raiseFault_agenda (r : Fault) (s : State) : (raiseFault r s).agenda = s.agenda := rfl

/-! ### setTimestamp -/

@[simp] theorem setTimestamp_cfg (v : Word) (s : State) : (setTimestamp v s).cfg = s.cfg := rfl
@[simp] theorem setTimestamp_rd (v : Word) (s : State) : (setTimestamp v s).rd = s.rd := rfl
@[simp] theorem setTimestamp_rb (v : Word) (s : State) : (setTimestamp v s).rb = s.rb := rfl
@[simp] theorem setTimestamp_wr (v : Word) (s : State) : (setTimestamp v s).wr = s.wr := rfl
@[simp] theorem setTimestamp_wb (v : Word) (s : State) : (setTimestamp v s).wb = s.wb := rfl
@[simp] theorem setTimestamp_isEncrypted (v : Word) (s : State) : (setTimestamp v s).isEncrypted = s.isEncrypted := rfl
@[simp] theorem setTimestamp_timestamp (v : Word) (s : State) : (setTimestamp v s).timestamp = v := rfl
@[simp] theorem setTimestamp_locked (v : Word) (s : State) : (setTimestamp v s).locked = s.locked := rfl
@[simp] theorem setTimestamp_fac (v : Word) (s : State) : (setTimestamp v s).fac = s.fac := rfl
@[simp] theorem setTimestamp_challenge (v : Word) (s : State) : (setTimestamp v s).challenge = s.challenge := rfl
@[simp] theorem setTimestamp_customKeyPresent (v : Word) (s : State) : (setTimestamp v s).customKeyPresent = s.customKeyPresent := rfl
@[simp] theorem setTimestamp_customKey (v : Word) (s : State) : (setTimestamp v s).customKey = s.customKey := rfl
@[simp] theorem setTimestamp_faulted (v : Word) (s : State) : (setTimestamp v s).faulted = s.faulted := rfl
@[simp] theorem setTimestamp_tx (v : Word) (s : State) : (setTimestamp v s).tx = s.tx := rfl
@[simp] theorem setTimestamp_ev (v : Word) (s : State) : (setTimestamp v s).ev = s.ev := rfl
@[simp] theorem setTimestamp_store (v : Word) (s : State) : (setTimestamp v s).store = s.store := rfl
@[simp] theorem setTimestamp_ports (v : Word) (s : State) : (setTimestamp v s).ports = s.ports := rfl
@[simp] theorem setTimestamp_draws (v : Word) (s : State) : (setTimestamp v s).draws = s.draws := rfl
@[simp] theorem setTimestamp_lastOutcome (v : Word) (s : State) : (setTimestamp v s).lastOutcome = s.lastOutcome := rfl
@[simp] theorem setTimestamp_agenda (v : Word) (s : State) : (setTimestamp v s).agenda = s.agenda := rfl

/-! ### setLock -/

@[simp] theorem setLock_cfg (lk : Bool) (n : BitVec 2) (s : State) : (setLock lk n s).cfg = s.cfg := rfl
@[simp] theorem setLock_rd (lk : Bool) (n : BitVec 2) (s : State) : (setLock lk n s).rd = s.rd := rfl
@[simp] theorem setLock_rb (lk : Bool) (n : BitVec 2) (s : State) : (setLock lk n s).rb = s.rb := rfl
@[simp] theorem setLock_wr (lk : Bool) (n : BitVec 2) (s : State) : (setLock lk n s).wr = s.wr := rfl
@[simp] theorem setLock_wb (lk : Bool) (n : BitVec 2) (s : State) : (setLock lk n s).wb = s.wb := rfl
@[simp] theorem setLock_isEncrypted (lk : Bool) (n : BitVec 2) (s : State) : (setLock lk n s).isEncrypted = s.isEncrypted := rfl
@[simp] theorem setLock_timestamp (lk : Bool) (n : BitVec 2) (s : State) : (setLock lk n s).timestamp = s.timestamp := rfl
@[simp] theorem setLock_locked (lk : Bool) (n : BitVec 2) (s : State) : (setLock lk n s).locked = lk := rfl
@[simp] theorem setLock_fac (lk : Bool) (n : BitVec 2) (s : State) : (setLock lk n s).fac = n := rfl
@[simp] theorem setLock_challenge (lk : Bool) (n : BitVec 2) (s : State) : (setLock lk n s).challenge = s.challenge := rfl
@[simp] theorem setLock_customKeyPresent (lk : Bool) (n : BitVec 2) (s : State) : (setLock lk n s).customKeyPresent = s.customKeyPresent := rfl
@[simp] theorem setLock_customKey (lk : Bool) (n : BitVec 2) (s : State) : (setLock lk n s).customKey = s.customKey := rfl
@[simp] theorem setLock_faulted (lk : Bool) (n : BitVec 2) (s : State) : (setLock lk n s).faulted = s.faulted := rfl
@[simp] theorem setLock_tx (lk : Bool) (n : BitVec 2) (s : State) : (setLock lk n s).tx = s.tx := rfl
@[simp] theorem setLock_ev (lk : Bool) (n : BitVec 2) (s : State) : (setLock lk n s).ev = s.ev := rfl
@[simp] theorem setLock_store (lk : Bool) (n : BitVec 2) (s : State) : (setLock lk n s).store = s.store := rfl
@[simp] theorem setLock_ports (lk : Bool) (n : BitVec 2) (s : State) : (setLock lk n s).ports = s.ports := rfl
@[simp] theorem setLock_draws (lk : Bool) (n : BitVec 2) (s : State) : (setLock lk n s).draws = s.draws := rfl
@[simp] theorem setLock_lastOutcome (lk : Bool) (n : BitVec 2) (s : State) : (setLock lk n s).lastOutcome = s.lastOutcome := rfl
@[simp] theorem setLock_agenda (lk : Bool) (n : BitVec 2) (s : State) : (setLock lk n s).agenda = s.agenda := rfl

/-! ### redrawChallenge -/

@[simp] theorem redrawChallenge_cfg (s : State) : (redrawChallenge s).cfg = s.cfg := rfl
@[simp] theorem redrawChallenge_rd (s : State) : (redrawChallenge s).rd = s.rd := rfl
@[simp] theorem redrawChallenge_rb (s : State) : (redrawChallenge s).rb = s.rb := rfl
@[simp] theorem redrawChallenge_wr (s : State) : (redrawChallenge s).wr = s.wr := rfl
@[simp] theorem redrawChallenge_wb (s : State) : (redrawChallenge s).wb = s.wb := rfl
@[simp] theorem redrawChallenge_isEncrypted (s : State) : (redrawChallenge s).isEncrypted = s.isEncrypted := rfl
@[simp] theorem redrawChallenge_timestamp (s : State) : (redrawChallenge s).timestamp = s.timestamp := rfl
@[simp] theorem redrawChallenge_locked (s : State) : (redrawChallenge s).locked = s.locked := rfl
@[simp] theorem redrawChallenge_fac (s : State) : (redrawChallenge s).fac = s.fac := rfl
@[simp] theorem redrawChallenge_challenge (s : State) : (redrawChallenge s).challenge = freeBlock s.draws := rfl
@[simp] theorem redrawChallenge_customKeyPresent (s : State) : (redrawChallenge s).customKeyPresent = s.customKeyPresent := rfl
@[simp] theorem redrawChallenge_customKey (s : State) : (redrawChallenge s).customKey = s.customKey := rfl
@[simp] theorem redrawChallenge_faulted (s : State) : (redrawChallenge s).faulted = s.faulted := rfl
@[simp] theorem redrawChallenge_tx (s : State) : (redrawChallenge s).tx = s.tx := rfl
@[simp] theorem redrawChallenge_ev (s : State) : (redrawChallenge s).ev = s.ev := rfl
@[simp] theorem redrawChallenge_store (s : State) : (redrawChallenge s).store = s.store := rfl
@[simp] theorem redrawChallenge_ports (s : State) : (redrawChallenge s).ports = s.ports := rfl
@[simp] theorem redrawChallenge_draws (s : State) : (redrawChallenge s).draws = s.draws + 4 := rfl
@[simp] theorem redrawChallenge_lastOutcome (s : State) : (redrawChallenge s).lastOutcome = s.lastOutcome := rfl
@[simp] theorem redrawChallenge_agenda (s : State) : (redrawChallenge s).agenda = s.agenda := rfl

/-! ### loadKeyCache -/

@[simp] theorem loadKeyCache_cfg (s : State) : (loadKeyCache s).cfg = s.cfg := rfl
@[simp] theorem loadKeyCache_rd (s : State) : (loadKeyCache s).rd = s.rd := rfl
@[simp] theorem loadKeyCache_rb (s : State) : (loadKeyCache s).rb = s.rb := rfl
@[simp] theorem loadKeyCache_wr (s : State) : (loadKeyCache s).wr = s.wr := rfl
@[simp] theorem loadKeyCache_wb (s : State) : (loadKeyCache s).wb = s.wb := rfl
@[simp] theorem loadKeyCache_isEncrypted (s : State) : (loadKeyCache s).isEncrypted = s.isEncrypted := rfl
@[simp] theorem loadKeyCache_timestamp (s : State) : (loadKeyCache s).timestamp = s.timestamp := rfl
@[simp] theorem loadKeyCache_locked (s : State) : (loadKeyCache s).locked = s.locked := rfl
@[simp] theorem loadKeyCache_fac (s : State) : (loadKeyCache s).fac = s.fac := rfl
@[simp] theorem loadKeyCache_challenge (s : State) : (loadKeyCache s).challenge = s.challenge := rfl
@[simp] theorem loadKeyCache_customKeyPresent (s : State) : (loadKeyCache s).customKeyPresent = s.ports.keyPresent := rfl
@[simp] theorem loadKeyCache_customKey (s : State) : (loadKeyCache s).customKey = s.ports.key := rfl
@[simp] theorem loadKeyCache_faulted (s : State) : (loadKeyCache s).faulted = s.faulted := rfl
@[simp] theorem loadKeyCache_tx (s : State) : (loadKeyCache s).tx = s.tx := rfl
@[simp] theorem loadKeyCache_ev (s : State) : (loadKeyCache s).ev = s.ev := rfl
@[simp] theorem loadKeyCache_store (s : State) : (loadKeyCache s).store = s.store := rfl
@[simp] theorem loadKeyCache_ports (s : State) : (loadKeyCache s).ports = s.ports := rfl
@[simp] theorem loadKeyCache_draws (s : State) : (loadKeyCache s).draws = s.draws := rfl
@[simp] theorem loadKeyCache_lastOutcome (s : State) : (loadKeyCache s).lastOutcome = s.lastOutcome := rfl
@[simp] theorem loadKeyCache_agenda (s : State) : (loadKeyCache s).agenda = s.agenda := rfl

/-! ### memReadEffect -/

@[simp] theorem memReadEffect_cfg (off : Half) (n : Nat) (s : State) : (memReadEffect off n s).cfg = s.cfg := rfl
@[simp] theorem memReadEffect_rd (off : Half) (n : Nat) (s : State) : (memReadEffect off n s).rd = s.rd := rfl
@[simp] theorem memReadEffect_rb (off : Half) (n : Nat) (s : State) : (memReadEffect off n s).rb = s.rb := rfl
@[simp] theorem memReadEffect_wr (off : Half) (n : Nat) (s : State) : (memReadEffect off n s).wr = s.wr := rfl
@[simp] theorem memReadEffect_wb (off : Half) (n : Nat) (s : State) : (memReadEffect off n s).wb = s.wb := rfl
@[simp] theorem memReadEffect_isEncrypted (off : Half) (n : Nat) (s : State) : (memReadEffect off n s).isEncrypted = s.isEncrypted := rfl
@[simp] theorem memReadEffect_timestamp (off : Half) (n : Nat) (s : State) : (memReadEffect off n s).timestamp = s.timestamp := rfl
@[simp] theorem memReadEffect_locked (off : Half) (n : Nat) (s : State) : (memReadEffect off n s).locked = s.locked := rfl
@[simp] theorem memReadEffect_fac (off : Half) (n : Nat) (s : State) : (memReadEffect off n s).fac = s.fac := rfl
@[simp] theorem memReadEffect_challenge (off : Half) (n : Nat) (s : State) : (memReadEffect off n s).challenge = s.challenge := rfl
@[simp] theorem memReadEffect_customKeyPresent (off : Half) (n : Nat) (s : State) : (memReadEffect off n s).customKeyPresent = s.customKeyPresent := rfl
@[simp] theorem memReadEffect_customKey (off : Half) (n : Nat) (s : State) : (memReadEffect off n s).customKey = s.customKey := rfl
@[simp] theorem memReadEffect_faulted (off : Half) (n : Nat) (s : State) : (memReadEffect off n s).faulted = s.faulted := rfl
@[simp] theorem memReadEffect_tx (off : Half) (n : Nat) (s : State) : (memReadEffect off n s).tx = s.tx := rfl
@[simp] theorem memReadEffect_ev (off : Half) (n : Nat) (s : State) : (memReadEffect off n s).ev = s.ev ++ [.storeRd off n] := rfl
@[simp] theorem memReadEffect_store (off : Half) (n : Nat) (s : State) : (memReadEffect off n s).store = s.store := rfl
@[simp] theorem memReadEffect_ports (off : Half) (n : Nat) (s : State) : (memReadEffect off n s).ports = s.ports := rfl
@[simp] theorem memReadEffect_draws (off : Half) (n : Nat) (s : State) : (memReadEffect off n s).draws = s.draws + n := rfl
@[simp] theorem memReadEffect_lastOutcome (off : Half) (n : Nat) (s : State) : (memReadEffect off n s).lastOutcome = s.lastOutcome := rfl
@[simp] theorem memReadEffect_agenda (off : Half) (n : Nat) (s : State) : (memReadEffect off n s).agenda = s.agenda := rfl

/-! ### storageReinit -/

@[simp] theorem storageReinit_cfg (s : State) : (storageReinit s).cfg = s.cfg := rfl
@[simp] theorem storageReinit_rd (s : State) : (storageReinit s).rd = s.rd := rfl
@[simp] theorem storageReinit_rb (s : State) : (storageReinit s).rb = s.rb := rfl
@[simp] theorem storageReinit_wr (s : State) : (storageReinit s).wr = s.wr := rfl
@[simp] theorem storageReinit_wb (s : State) : (storageReinit s).wb = s.wb := rfl
@[simp] theorem storageReinit_isEncrypted (s : State) : (storageReinit s).isEncrypted = s.isEncrypted := rfl
@[simp] theorem storageReinit_timestamp (s : State) : (storageReinit s).timestamp = s.timestamp := rfl
@[simp] theorem storageReinit_locked (s : State) : (storageReinit s).locked = s.locked := rfl
@[simp] theorem storageReinit_fac (s : State) : (storageReinit s).fac = s.fac := rfl
@[simp] theorem storageReinit_challenge (s : State) : (storageReinit s).challenge = s.challenge := rfl
@[simp] theorem storageReinit_customKeyPresent (s : State) : (storageReinit s).customKeyPresent = s.ports.keyPresent := rfl
@[simp] theorem storageReinit_customKey (s : State) : (storageReinit s).customKey = s.ports.key := rfl
@[simp] theorem storageReinit_faulted (s : State) : (storageReinit s).faulted = s.faulted := rfl
@[simp] theorem storageReinit_tx (s : State) : (storageReinit s).tx = s.tx := rfl
@[simp] theorem storageReinit_ev (s : State) : (storageReinit s).ev = s.ev ++ [.storeReinit] := rfl
@[simp] theorem storageReinit_store (s : State) : (storageReinit s).store = s.store := rfl
@[simp] theorem storageReinit_ports (s : State) : (storageReinit s).ports = s.ports := rfl
@[simp] theorem storageReinit_draws (s : State) : (storageReinit s).draws = s.draws := rfl
@[simp] theorem storageReinit_lastOutcome (s : State) : (storageReinit s).lastOutcome = s.lastOutcome := rfl
@[simp] theorem storageReinit_agenda (s : State) : (storageReinit s).agenda = s.agenda := rfl

/-! ### dmaStep -/

@[simp] theorem dmaStep_cfg (b : Byte) (s : State) : (dmaStep b s).cfg = s.cfg := rfl
@[simp] theorem dmaStep_rd (b : Byte) (s : State) : (dmaStep b s).rd = s.rd := rfl
@[simp] theorem dmaStep_rb (b : Byte) (s : State) : (dmaStep b s).rb = Memory.write ringBlank s.rb s.wr b := rfl
@[simp] theorem dmaStep_wr (b : Byte) (s : State) : (dmaStep b s).wr = ring s.cfg.cap (s.wr + 1) := rfl
@[simp] theorem dmaStep_wb (b : Byte) (s : State) : (dmaStep b s).wb = s.wb := rfl
@[simp] theorem dmaStep_isEncrypted (b : Byte) (s : State) : (dmaStep b s).isEncrypted = s.isEncrypted := rfl
@[simp] theorem dmaStep_timestamp (b : Byte) (s : State) : (dmaStep b s).timestamp = s.timestamp := rfl
@[simp] theorem dmaStep_locked (b : Byte) (s : State) : (dmaStep b s).locked = s.locked := rfl
@[simp] theorem dmaStep_fac (b : Byte) (s : State) : (dmaStep b s).fac = s.fac := rfl
@[simp] theorem dmaStep_challenge (b : Byte) (s : State) : (dmaStep b s).challenge = s.challenge := rfl
@[simp] theorem dmaStep_customKeyPresent (b : Byte) (s : State) : (dmaStep b s).customKeyPresent = s.customKeyPresent := rfl
@[simp] theorem dmaStep_customKey (b : Byte) (s : State) : (dmaStep b s).customKey = s.customKey := rfl
@[simp] theorem dmaStep_faulted (b : Byte) (s : State) : (dmaStep b s).faulted = s.faulted := rfl
@[simp] theorem dmaStep_tx (b : Byte) (s : State) : (dmaStep b s).tx = s.tx := rfl
@[simp] theorem dmaStep_ev (b : Byte) (s : State) : (dmaStep b s).ev = s.ev := rfl
@[simp] theorem dmaStep_store (b : Byte) (s : State) : (dmaStep b s).store = s.store := rfl
@[simp] theorem dmaStep_ports (b : Byte) (s : State) : (dmaStep b s).ports = s.ports := rfl
@[simp] theorem dmaStep_draws (b : Byte) (s : State) : (dmaStep b s).draws = s.draws := rfl
@[simp] theorem dmaStep_lastOutcome (b : Byte) (s : State) : (dmaStep b s).lastOutcome = s.lastOutcome := rfl
@[simp] theorem dmaStep_agenda (b : Byte) (s : State) : (dmaStep b s).agenda = s.agenda := rfl

/-! ### sendReply -/

@[simp] theorem sendReply_cfg (p : List Byte) (s : State) : (sendReply p s).cfg = s.cfg := rfl
@[simp] theorem sendReply_rd (p : List Byte) (s : State) : (sendReply p s).rd = s.rd := rfl
@[simp] theorem sendReply_rb (p : List Byte) (s : State) : (sendReply p s).rb = s.rb := rfl
@[simp] theorem sendReply_wr (p : List Byte) (s : State) : (sendReply p s).wr = s.wr := rfl
@[simp] theorem sendReply_wb (p : List Byte) (s : State) : (sendReply p s).wb = s.wb := rfl
@[simp] theorem sendReply_isEncrypted (p : List Byte) (s : State) : (sendReply p s).isEncrypted = s.isEncrypted := rfl
@[simp] theorem sendReply_timestamp (p : List Byte) (s : State) : (sendReply p s).timestamp = s.timestamp := rfl
@[simp] theorem sendReply_locked (p : List Byte) (s : State) : (sendReply p s).locked = s.locked := rfl
@[simp] theorem sendReply_fac (p : List Byte) (s : State) : (sendReply p s).fac = s.fac := rfl
@[simp] theorem sendReply_challenge (p : List Byte) (s : State) : (sendReply p s).challenge = s.challenge := rfl
@[simp] theorem sendReply_customKeyPresent (p : List Byte) (s : State) : (sendReply p s).customKeyPresent = s.customKeyPresent := rfl
@[simp] theorem sendReply_customKey (p : List Byte) (s : State) : (sendReply p s).customKey = s.customKey := rfl
@[simp] theorem sendReply_faulted (p : List Byte) (s : State) : (sendReply p s).faulted = s.faulted := rfl
@[simp] theorem sendReply_tx (p : List Byte) (s : State) : (sendReply p s).tx = s.tx ++ replyFrame s.cfg s.isEncrypted p := rfl
@[simp] theorem sendReply_ev (p : List Byte) (s : State) : (sendReply p s).ev = s.ev := rfl
@[simp] theorem sendReply_store (p : List Byte) (s : State) : (sendReply p s).store = s.store := rfl
@[simp] theorem sendReply_ports (p : List Byte) (s : State) : (sendReply p s).ports = s.ports := rfl
@[simp] theorem sendReply_draws (p : List Byte) (s : State) : (sendReply p s).draws = s.draws := rfl
@[simp] theorem sendReply_lastOutcome (p : List Byte) (s : State) : (sendReply p s).lastOutcome = s.lastOutcome := rfl
@[simp] theorem sendReply_agenda (p : List Byte) (s : State) : (sendReply p s).agenda = s.agenda := rfl

/-! ### authenticate -/

@[simp] theorem authenticate_cfg (r : Block) (s : State) : (authenticate r s).cfg = s.cfg := rfl
@[simp] theorem authenticate_rd (r : Block) (s : State) : (authenticate r s).rd = s.rd := rfl
@[simp] theorem authenticate_rb (r : Block) (s : State) : (authenticate r s).rb = s.rb := rfl
@[simp] theorem authenticate_wr (r : Block) (s : State) : (authenticate r s).wr = s.wr := rfl
@[simp] theorem authenticate_wb (r : Block) (s : State) : (authenticate r s).wb = s.wb := rfl
@[simp] theorem authenticate_isEncrypted (r : Block) (s : State) : (authenticate r s).isEncrypted = s.isEncrypted := rfl
@[simp] theorem authenticate_timestamp (r : Block) (s : State) : (authenticate r s).timestamp = s.timestamp := rfl
@[simp] theorem authenticate_locked (r : Block) (s : State) : (authenticate r s).locked = (authResult s r).1 := rfl
@[simp] theorem authenticate_fac (r : Block) (s : State) : (authenticate r s).fac = (authResult s r).2 := rfl
@[simp] theorem authenticate_challenge (r : Block) (s : State) : (authenticate r s).challenge = s.challenge := rfl
@[simp] theorem authenticate_customKeyPresent (r : Block) (s : State) : (authenticate r s).customKeyPresent = s.customKeyPresent := rfl
@[simp] theorem authenticate_customKey (r : Block) (s : State) : (authenticate r s).customKey = s.customKey := rfl
@[simp] theorem authenticate_faulted (r : Block) (s : State) : (authenticate r s).faulted = s.faulted := rfl
@[simp] theorem authenticate_tx (r : Block) (s : State) : (authenticate r s).tx = s.tx := rfl
@[simp] theorem authenticate_ev (r : Block) (s : State) : (authenticate r s).ev = s.ev := rfl
@[simp] theorem authenticate_store (r : Block) (s : State) : (authenticate r s).store = s.store := rfl
@[simp] theorem authenticate_ports (r : Block) (s : State) : (authenticate r s).ports = s.ports := rfl
@[simp] theorem authenticate_draws (r : Block) (s : State) : (authenticate r s).draws = s.draws := rfl
@[simp] theorem authenticate_lastOutcome (r : Block) (s : State) : (authenticate r s).lastOutcome = s.lastOutcome := rfl
@[simp] theorem authenticate_agenda (r : Block) (s : State) : (authenticate r s).agenda = s.agenda := rfl

/-! ### resetRegisters -/

@[simp] theorem resetRegisters_cfg (s : State) : (resetRegisters s).cfg = s.cfg := rfl
@[simp] theorem resetRegisters_rd (s : State) : (resetRegisters s).rd = 0 := rfl
@[simp] theorem resetRegisters_rb (s : State) : (resetRegisters s).rb = [] := rfl
@[simp] theorem resetRegisters_wr (s : State) : (resetRegisters s).wr = 0 := rfl
@[simp] theorem resetRegisters_wb (s : State) : (resetRegisters s).wb = [] := rfl
@[simp] theorem resetRegisters_isEncrypted (s : State) : (resetRegisters s).isEncrypted = true := rfl
@[simp] theorem resetRegisters_timestamp (s : State) : (resetRegisters s).timestamp = s.cfg.tsReset := rfl
@[simp] theorem resetRegisters_locked (s : State) : (resetRegisters s).locked = s.ports.keyPresent := rfl
@[simp] theorem resetRegisters_fac (s : State) : (resetRegisters s).fac = 0 := rfl
@[simp] theorem resetRegisters_challenge (s : State) : (resetRegisters s).challenge = freeBlock s.draws := rfl
@[simp] theorem resetRegisters_customKeyPresent (s : State) : (resetRegisters s).customKeyPresent = s.ports.keyPresent := rfl
@[simp] theorem resetRegisters_customKey (s : State) : (resetRegisters s).customKey = s.ports.key := rfl
@[simp] theorem resetRegisters_faulted (s : State) : (resetRegisters s).faulted = s.faulted := rfl
@[simp] theorem resetRegisters_tx (s : State) : (resetRegisters s).tx = s.tx := rfl
@[simp] theorem resetRegisters_ev (s : State) : (resetRegisters s).ev = s.ev := rfl
@[simp] theorem resetRegisters_store (s : State) : (resetRegisters s).store = s.store := rfl
@[simp] theorem resetRegisters_ports (s : State) : (resetRegisters s).ports = s.ports := rfl
@[simp] theorem resetRegisters_draws (s : State) : (resetRegisters s).draws = s.draws + 4 := rfl
@[simp] theorem resetRegisters_lastOutcome (s : State) : (resetRegisters s).lastOutcome = s.lastOutcome := rfl
@[simp] theorem resetRegisters_agenda (s : State) : (resetRegisters s).agenda = s.agenda := rfl

/-! ### The storage write, whose effect depends on the storage model -/

@[simp] theorem storeData_oracle (off : Half) (d : List Byte) (s : State) (h : s.cfg.storageModel = .oracle) :
    storeData off d s = s := by
  simp [storeData, h]

@[simp] theorem storeData_image (off : Half) (d : List Byte) (s : State) (h : s.cfg.storageModel = .image) :
    storeData off d s = { s with store := storeWriteSeq s.store off.toNat d } := by
  simp [storeData, h]

/-- A storage write changes `STORE` and nothing else. -/
theorem storeData_eq (off : Half) (d : List Byte) (s : State) :
    storeData off d s = { s with store := (storeData off d s).store } := by
  unfold storeData
  split <;> rfl

/-- `MemWrite` records its event and changes `STORE`, nothing else. -/
theorem memWriteEffect_eq (off : Half) (d : List Byte) (s : State) :
    memWriteEffect off d s = { s with ev := s.ev ++ [.storeWr off d], store := (storeData off d s).store } := by
  unfold memWriteEffect storeData signal
  cases s.cfg.storageModel <;> rfl

@[simp] theorem memWriteEffect_cfg (off : Half) (d : List Byte) (s : State) : (memWriteEffect off d s).cfg = s.cfg := by
  rw [memWriteEffect_eq]
@[simp] theorem memWriteEffect_rd (off : Half) (d : List Byte) (s : State) : (memWriteEffect off d s).rd = s.rd := by
  rw [memWriteEffect_eq]
@[simp] theorem memWriteEffect_rb (off : Half) (d : List Byte) (s : State) : (memWriteEffect off d s).rb = s.rb := by
  rw [memWriteEffect_eq]
@[simp] theorem memWriteEffect_wr (off : Half) (d : List Byte) (s : State) : (memWriteEffect off d s).wr = s.wr := by
  rw [memWriteEffect_eq]
@[simp] theorem memWriteEffect_wb (off : Half) (d : List Byte) (s : State) : (memWriteEffect off d s).wb = s.wb := by
  rw [memWriteEffect_eq]
@[simp] theorem memWriteEffect_isEncrypted (off : Half) (d : List Byte) (s : State) : (memWriteEffect off d s).isEncrypted = s.isEncrypted := by
  rw [memWriteEffect_eq]
@[simp] theorem memWriteEffect_timestamp (off : Half) (d : List Byte) (s : State) : (memWriteEffect off d s).timestamp = s.timestamp := by
  rw [memWriteEffect_eq]
@[simp] theorem memWriteEffect_locked (off : Half) (d : List Byte) (s : State) : (memWriteEffect off d s).locked = s.locked := by
  rw [memWriteEffect_eq]
@[simp] theorem memWriteEffect_fac (off : Half) (d : List Byte) (s : State) : (memWriteEffect off d s).fac = s.fac := by
  rw [memWriteEffect_eq]
@[simp] theorem memWriteEffect_challenge (off : Half) (d : List Byte) (s : State) : (memWriteEffect off d s).challenge = s.challenge := by
  rw [memWriteEffect_eq]
@[simp] theorem memWriteEffect_customKeyPresent (off : Half) (d : List Byte) (s : State) : (memWriteEffect off d s).customKeyPresent = s.customKeyPresent := by
  rw [memWriteEffect_eq]
@[simp] theorem memWriteEffect_customKey (off : Half) (d : List Byte) (s : State) : (memWriteEffect off d s).customKey = s.customKey := by
  rw [memWriteEffect_eq]
@[simp] theorem memWriteEffect_faulted (off : Half) (d : List Byte) (s : State) : (memWriteEffect off d s).faulted = s.faulted := by
  rw [memWriteEffect_eq]
@[simp] theorem memWriteEffect_tx (off : Half) (d : List Byte) (s : State) : (memWriteEffect off d s).tx = s.tx := by
  rw [memWriteEffect_eq]
@[simp] theorem memWriteEffect_ev (off : Half) (d : List Byte) (s : State) : (memWriteEffect off d s).ev = s.ev ++ [.storeWr off d] := by
  rw [memWriteEffect_eq]
@[simp] theorem memWriteEffect_store (off : Half) (d : List Byte) (s : State) : (memWriteEffect off d s).store = (storeData off d s).store := by
  rw [memWriteEffect_eq]
@[simp] theorem memWriteEffect_ports (off : Half) (d : List Byte) (s : State) : (memWriteEffect off d s).ports = s.ports := by
  rw [memWriteEffect_eq]
@[simp] theorem memWriteEffect_draws (off : Half) (d : List Byte) (s : State) : (memWriteEffect off d s).draws = s.draws := by
  rw [memWriteEffect_eq]
@[simp] theorem memWriteEffect_lastOutcome (off : Half) (d : List Byte) (s : State) : (memWriteEffect off d s).lastOutcome = s.lastOutcome := by
  rw [memWriteEffect_eq]
@[simp] theorem memWriteEffect_agenda (off : Half) (d : List Byte) (s : State) : (memWriteEffect off d s).agenda = s.agenda := by
  rw [memWriteEffect_eq]

end Sys2Proof.Machine
end

