-- ==== Sys2Proof/Laws/Handlers.lean ====
section
/-! SUPPORT. What the shared operations of the handlers do, each said once. -/

namespace Sys2Proof.Machine

/-! ### Working-buffer reach -/

theorem withinWB_of_le {reach : Nat} {s : State} (h : reach ≤ s.cfg.wbCap) (run : Host.Outcome State Fault Refusal) :
    withinWB reach s run = run := by
  rw [withinWB, if_neg (by omega)]

theorem withinWB_of_lt {reach : Nat} {s : State} (h : s.cfg.wbCap < reach) (run : Host.Outcome State Fault Refusal) :
    withinWB reach s run = .next (raiseFault .wbOverread s) := by
  rw [withinWB, if_pos h]

/-- MEM_READ reads no further than payload byte 12. -/
theorem memReadReach_le (p : Params) : memReadReach p ≤ 12 := by
  unfold memReadReach
  split <;> omega

/-! ### Replies -/

/-- `SendReply` appends one frame to `TX` and writes nothing else. -/
theorem sendReply_eq (payload : List Byte) (s : State) :
    sendReply payload s = { s with tx := s.tx ++ replyFrame s.cfg s.isEncrypted payload } := rfl

@[simp] theorem length_versionField (p : Params) (d : Nat) : (versionField p d).length = 16 := by simp [versionField]

@[simp] theorem length_versionPayload (s : State) : (versionPayload s).length = 40 := by simp [versionPayload]

/-- A byte of the version field: of the version string, its terminator, or a free byte. -/
theorem byteAt_versionField (p : Params) (d k : Nat) (h : k < 16) :
    byteAt (versionField p d) k =
      if k < p.version.length then byteAt p.version k
      else if k = p.version.length then 0
      else Config.freeByte (d + (k - (p.version.length + 1))) :=
  byteAt_map_range _ _ _ h

/-- The redraw before a version reply writes `Challenge` and the draw counter only. -/
theorem refreshBeforeVersion_eq (s : State) :
    refreshBeforeVersion s =
      { s with challenge := (refreshBeforeVersion s).challenge, draws := (refreshBeforeVersion s).draws } := by
  unfold refreshBeforeVersion redrawChallenge
  cases s.cfg.challengePolicy <;> rfl

/-- `SendVersion` writes `TX`, `Challenge` and the draw counter only. -/
theorem sendVersion_eq (s : State) :
    sendVersion s =
      { s with
        tx := s.tx ++ replyFrame s.cfg s.isEncrypted (versionPayload (refreshBeforeVersion s))
        challenge := (refreshBeforeVersion s).challenge
        draws := (sendVersion s).draws } := by
  unfold sendVersion refreshBeforeVersion
  cases s.cfg.challengePolicy <;> rfl

/-- The lock-status reply writes `TX` and the draw counter only. -/
theorem sendLockStatus_eq (s : State) :
    sendLockStatus s =
      { s with tx := s.tx ++ replyFrame s.cfg s.isEncrypted (lockStatusPayload s), draws := s.draws + 3 } := rfl

/-- The redraw after a response writes `Challenge` and the draw counter only. -/
theorem refreshAfterResponse_eq (s : State) :
    refreshAfterResponse s =
      { s with challenge := (refreshAfterResponse s).challenge, draws := (refreshAfterResponse s).draws } := by
  unfold refreshAfterResponse redrawChallenge
  cases s.cfg.challengePolicy <;> rfl

/-! ### The chunks of a write -/

/-- A chunk changes the event log and `STORE` only. -/
theorem writeChunk_eq (off : Half) (allow : Bool) (data : List Byte) (s : State) (i : Nat) :
    writeChunk off allow data s i =
      { s with ev := (writeChunk off allow data s i).ev, store := (writeChunk off allow data s i).store } := by
  unfold writeChunk
  split
  · rfl
  · rw [memWriteEffect_eq]

/-- One chunk more. -/
theorem writeChunks_succ (off : Half) (allow : Bool) (data : List Byte) (m : Nat) (s : State) :
    writeChunks off allow data (m + 1) s = writeChunk off allow data (writeChunks off allow data m s) m := by
  simp [writeChunks, List.range_succ, List.foldl_append]

/-- The chunks change the event log and `STORE` only. -/
theorem writeChunks_eq (off : Half) (allow : Bool) (data : List Byte) (m : Nat) (s : State) :
    writeChunks off allow data m s =
      { s with ev := (writeChunks off allow data m s).ev, store := (writeChunks off allow data m s).store } := by
  induction m with
  | zero => rfl
  | succ m ih =>
    rw [writeChunks_succ, writeChunk_eq]
    generalize (writeChunk off allow data (writeChunks off allow data m s) m).ev = e
    generalize (writeChunk off allow data (writeChunks off allow data m s) m).store = w
    rw [ih]

/-- The password-window test of a chunk reads what no chunk writes. -/
theorem pwSkipped_writeChunks (off : Half) (allow : Bool) (data : List Byte) (m : Nat) (s : State) (a : Bool)
    (o : Half) : pwSkipped (writeChunks off allow data m s) a o = pwSkipped s a o := by
  rw [writeChunks_eq]
  rfl

/-- The events of the chunks: one STORE_WR for each chunk that is not skipped, in order. -/
theorem writeChunks_ev (off : Half) (allow : Bool) (data : List Byte) (m : Nat) (s : State) :
    (writeChunks off allow data m s).ev =
      s.ev ++ ((List.range m).filter fun i => !pwSkipped s allow (chunkOffset off i)).map
        fun i => .storeWr (chunkOffset off i) (chunkData data i) := by
  induction m with
  | zero => simp [writeChunks]
  | succ m ih =>
    rw [writeChunks_succ, writeChunk, pwSkipped_writeChunks]
    by_cases h : pwSkipped s allow (chunkOffset off m) = true
    · simp [h, ih, List.range_succ, List.filter_append]
    · simp [h, ih, List.range_succ, List.filter_append]

/-- Under `ORACLE` the chunks change no storage. -/
theorem writeChunks_store_oracle (off : Half) (allow : Bool) (data : List Byte) (m : Nat) (s : State)
    (h : s.cfg.storageModel = .oracle) : (writeChunks off allow data m s).store = s.store := by
  induction m with
  | zero => rfl
  | succ m ih =>
    rw [writeChunks_succ, writeChunk]
    split
    · exact ih
    · have hc : (writeChunks off allow data m s).cfg.storageModel = .oracle := by
        rw [writeChunks_eq]
        exact h
      rw [memWriteEffect_store, storeData_oracle _ _ _ hc, ih]

/-- The offset of a chunk, as a number. -/
theorem chunkOffset_toNat (off : Half) (i : Nat) : (chunkOffset off i).toNat = (off.toNat + 8 * i) % 65536 := by
  simp [chunkOffset, BitVec.toNat_add, Nat.add_mod]

/-- A permitted write changes the event log, `STORE` and the key cache only. -/
theorem permittedWrite_eq (off : Half) (allow : Bool) (data : List Byte) (m : Nat) (s : State) :
    permittedWrite off allow data m s =
      { s with
        ev := (permittedWrite off allow data m s).ev
        store := (writeChunks off allow data m s).store
        customKeyPresent := (permittedWrite off allow data m s).customKeyPresent
        customKey := (permittedWrite off allow data m s).customKey } := by
  unfold permittedWrite
  dsimp only
  rw [writeChunks_eq]
  split <;> rfl

/-- A permitted write reinitialises storage at most once, after its chunks, and refills the key cache then and only
then. -/
theorem permittedWrite_reinit (off : Half) (allow : Bool) (data : List Byte) (m : Nat) (s : State) :
    (needsReinit off m s = true →
      (permittedWrite off allow data m s).ev = (writeChunks off allow data m s).ev ++ [.storeReinit] ∧
      (permittedWrite off allow data m s).customKeyPresent = s.ports.keyPresent ∧
      (permittedWrite off allow data m s).customKey = s.ports.key) ∧
    (needsReinit off m s = false →
      (permittedWrite off allow data m s).ev = (writeChunks off allow data m s).ev ∧
      (permittedWrite off allow data m s).customKeyPresent = s.customKeyPresent ∧
      (permittedWrite off allow data m s).customKey = s.customKey) := by
  constructor
  · intro h
    unfold permittedWrite
    dsimp only
    rw [if_pos h, writeChunks_eq]
    exact ⟨rfl, rfl, rfl⟩
  · intro h
    unfold permittedWrite
    dsimp only
    rw [if_neg (by simp [h]), writeChunks_eq]
    exact ⟨rfl, rfl, rfl⟩

/-! ### Reset -/

/-- `Reset()` leaves the parameters, the ports, storage, the logs, `Faulted` and the model's own agenda and outcome. -/
theorem resetRegisters_eq (s : State) :
    resetRegisters s =
      { s with
        rd := 0, rb := [], wr := 0, wb := [], isEncrypted := true, timestamp := s.cfg.tsReset,
        locked := s.ports.keyPresent, fac := 0, challenge := freeBlock s.draws,
        customKeyPresent := s.ports.keyPresent, customKey := s.ports.key, draws := s.draws + 4 } := rfl

/-! ### The handlers' frames -/

/-- `SendVersion`, as one record update: one frame of a 40-byte payload, and some challenge and draw count. -/
theorem sendVersion_frame (s : State) :
    ∃ payload c d, payload.length = 40 ∧
      sendVersion s =
        { s with tx := s.tx ++ replyFrame s.cfg s.isEncrypted payload, challenge := c, draws := d } := by
  rw [sendVersion_eq]
  exact ⟨_, _, _, length_versionPayload _, rfl⟩

/-- What AUTH_RESPONSE does after its reach check, as one record update. -/
theorem authResponse_frame (r : Block) (s : State) :
    ∃ c d, refreshAfterResponse (sendLockStatus (authenticate r s)) =
      { s with
        locked := (authenticate r s).locked
        fac := (authenticate r s).fac
        tx := s.tx ++ replyFrame s.cfg s.isEncrypted (lockStatusPayload (authenticate r s))
        challenge := c
        draws := d } := by
  rw [refreshAfterResponse_eq]
  exact ⟨_, _, rfl⟩

/-- A permitted write, as one record update. -/
theorem permittedWrite_frame (off : Half) (allow : Bool) (data : List Byte) (m : Nat) (s : State) :
    ∃ e st kp k, permittedWrite off allow data m s =
      { s with ev := e, store := st, customKeyPresent := kp, customKey := k } := by
  rw [permittedWrite_eq]
  exact ⟨_, _, _, _, rfl⟩

/-- The chunks of a write keep the storage image in canonical form. -/
theorem wf_writeChunks (off : Half) (allow : Bool) (data : List Byte) (m : Nat) (s : State)
    (h : Memory.wf storeBlank storeSize s.store = true) :
    Memory.wf storeBlank storeSize (writeChunks off allow data m s).store = true := by
  induction m with
  | zero => exact h
  | succ m ih =>
    rw [writeChunks_succ]
    unfold writeChunk memWriteEffect storeData
    split
    · exact ih
    · split
      · exact ih
      · exact wf_storeWriteSeq _ _ _ ih

end Sys2Proof.Machine
end

