-- ==== Sys2Proof/Laws/Exec.lean ====
section
/-! SUPPORT. What a command, a poll and a step can do, each said once: the provers cite these inversions instead of
unfolding `exec`, `poll` and `step`. -/

namespace Sys2Proof.Machine

/-! ### The checks of the storage commands, as the statements spell them -/

/-- An accepted Timestamp is not stale. -/
theorem isStale_of_accepted {s : State} {id : Half} {ts : Word} (h : TimestampAccepted s id ts) :
    isStale id ts s = false := by
  unfold isStale
  by_cases hm : id ∈ s.cfg.tsChecked
  · simp [h hm]
  · simp [hm]

/-- Where the fields of MEM_READ fit, its reach is within the working buffer. -/
theorem memReadReach_le_of_fit {p : Params} (h : ReadFieldsFit p) : memReadReach p ≤ p.wbCap := by
  unfold memReadReach
  split
  · exact h.2 ‹_›
  · exact h.1

/-- The gate. -/
theorem gate_iff (s : State) : gate s = true ↔ GateCloses s := by
  unfold gate GateCloses
  cases s.cfg.gateMode <;> simp

/-- A read is denied where the gate is closed and its range is gated. -/
theorem readDenied_iff (s : State) (o : Half) (n : Nat) : readDenied s o n = true ↔ ReadIsDenied s o n := by
  unfold readDenied readGated ReadIsDenied
  rw [Bool.and_eq_true, gate_iff]
  cases s.cfg.readGated <;> simp

/-- A write is denied where the gate is closed and its range is gated. -/
theorem writeDenied_iff (s : State) (o : Half) (n : Nat) : writeDenied s o n = true ↔ WriteIsDenied s o n := by
  unfold writeDenied writeGated WriteIsDenied
  rw [Bool.and_eq_true, gate_iff]
  cases s.cfg.writeGated <;> simp

/-- The password-window test of a chunk. -/
theorem pwSkipped_eq (s : State) (allow : Byte) (o : Half) :
    pwSkipped s (allowsPw allow) o = decide (PwProtected s allow o) := by
  simp [pwSkipped, inPwWindow, allowsPw, Bool.and_assoc]

/-- The calibration-window test of a chunk. -/
theorem inCalWindow_eq (s : State) (o : Half) : inCalWindow s.cfg o = decide (StartsInCalibration s o) := by
  simp [inCalWindow]

/-! ### One command -/

/-- The next states of a command. -/
inductive ExecCase (s : State) : Instr → State → Prop where
  /-- It raised a Fault. -/
  | fault (i : Instr) (r : Fault) : ExecCase s i (raiseFault r s)
  /-- A stale read. -/
  | staleRead (l off n pad ts) : ExecCase s (.memRead l off n pad ts) (finish .stale s)
  /-- A stale write. -/
  | staleWrite (l off n allow ts data) : ExecCase s (.memWrite l off n allow ts data) (finish .stale s)
  /-- SESSION_START. -/
  | session (l ts) : ExecCase s (.sessionStart l ts) (finish .replied (sendVersion (setTimestamp ts s)))
  /-- A denied read. -/
  | deniedRead (l off n pad ts) (h : readDenied s off n.toNat = true) :
      ExecCase s (.memRead l off n pad ts)
        (finish .denied (sendReply (memReadPayload off n (List.replicate n.toNat 0)) s))
  /-- A permitted read. -/
  | read (l off n pad ts) (h : readDenied s off n.toNat = false) :
      ExecCase s (.memRead l off n pad ts)
        (finish .replied
          (sendReply (memReadPayload off n (memReadData off n.toNat s)) (memReadEffect off n.toNat s)))
  /-- A denied write. -/
  | deniedWrite (l off n allow ts data) (h : writeDenied s off n.toNat = true) :
      ExecCase s (.memWrite l off n allow ts data) (finish .denied (sendReply (memWritePayload off) s))
  /-- A permitted write. -/
  | write (l off n allow ts data) (h : writeDenied s off n.toNat = false) :
      ExecCase s (.memWrite l off n allow ts data)
        (finish .replied
          (sendReply (memWritePayload off) (permittedWrite off (allowsPw allow) data (chunkCount n) s)))
  /-- NOP_051F. -/
  | nopA (l) : ExecCase s (.nop051F l) (finish .noAction s)
  /-- NOP_0521. -/
  | nopB (l) : ExecCase s (.nop0521 l) (finish .noAction s)
  /-- RF_STATUS. -/
  | rf (l) : ExecCase s (.rfStatus l) (finish .replied (sendReply (rfStatusPayload s.ports) s))
  /-- BATT_STATUS. -/
  | batt (l) : ExecCase s (.battStatus l) (finish .replied (sendReply (battStatusPayload s.ports) s))
  /-- AUTH_RESPONSE. -/
  | auth (l r) :
      ExecCase s (.authResponse l r)
        (finish (if (authenticate r s).locked then .authFail else .replied)
          (refreshAfterResponse (sendLockStatus (authenticate r s))))
  /-- FACTORY_RESET. -/
  | factory (l ts) :
      ExecCase s (.factoryReset l ts)
        (finish .replied (sendVersion (setTimestamp ts (signal .pwrsaveExit (signal .factoryDefaults s)))))
  /-- REBOOT_BL. -/
  | reboot (l) : ExecCase s (.rebootBl l) (finish .reboot (signal .reboot s))

/-- Every next state of a command is one of these. -/
theorem exec_cases {i : Instr} {s t : State} (h : exec i s = .next t) : ExecCase s i t := by
  cases i with
  | sessionStart l ts =>
    simp only [exec, execSessionStart, withinWB] at h
    split at h <;> injection h with h <;> subst h
    · exact .fault _ _
    · exact .session _ _
  | memRead l off n pad ts =>
    simp only [exec, execMemRead, withinWB, replyRead] at h
    split at h
    · injection h with h
      exact h ▸ .fault _ _
    split at h
    · injection h with h
      exact h ▸ .staleRead _ _ _ _ _
    split at h
    · injection h with h
      exact h ▸ .fault _ _
    injection h with h
    split at h <;> subst h
    · exact .deniedRead _ _ _ _ _ ‹_›
    · exact .read _ _ _ _ _ (by simp_all)
  | memWrite l off n allow ts data =>
    simp only [exec, execMemWrite, withinWB, replyWrite] at h
    split at h
    · injection h with h
      exact h ▸ .fault _ _
    split at h
    · injection h with h
      exact h ▸ .staleWrite _ _ _ _ _ _
    split at h
    · injection h with h
      exact h ▸ .fault _ _
    injection h with h
    split at h <;> subst h
    · exact .deniedWrite _ _ _ _ _ _ ‹_›
    · exact .write _ _ _ _ _ _ (by simp_all)
  | nop051F l =>
    injection h with h
    exact h ▸ .nopA _
  | nop0521 l =>
    injection h with h
    exact h ▸ .nopB _
  | rfStatus l =>
    injection h with h
    exact h ▸ .rf _
  | battStatus l =>
    injection h with h
    exact h ▸ .batt _
  | authResponse l r =>
    simp only [exec, execAuthResponse, withinWB] at h
    split at h <;> injection h with h <;> subst h
    · exact .fault _ _
    · exact .auth _ _
  | factoryReset l ts =>
    simp only [exec, execFactoryReset, withinWB] at h
    split at h <;> injection h with h <;> subst h
    · exact .fault _ _
    · exact .factory _ _
  | rebootBl l =>
    injection h with h
    exact h ▸ .reboot _

/-! ### One poll -/

/-- A poll without a valid frame. -/
theorem poll_noFrame {s t : State} {o : PollOutcome} (hf : s.faulted = false) (hx : tryExtract s = (.noFrame o, t)) :
    poll s = .next (finish o t) := by
  unfold poll
  rw [if_neg (by simp [hf]), hx]

/-- A poll with a valid frame. -/
theorem poll_ready {s t : State} {n : Nat} (hf : s.faulted = false) (hx : tryExtract s = (.ready n, t)) :
    poll s = dispatchWB t := by
  unfold poll
  rw [if_neg (by simp [hf]), hx]

/-! ### One step -/

/-- A byte at `Faulted = 0` is a step of the DMA producer. -/
theorem receive_running {s : State} (b : Byte) (h : s.faulted = false) : receive b s = dmaStep b s :=
  if_neg (by simp [h])

/-- A byte at `Faulted = 1` is passed over. -/
theorem receive_faulted {s : State} (b : Byte) (h : s.faulted = true) : receive b s = s := if_pos h

/-- The next states of a step. -/
inductive StepCase (s : State) : State → Prop where
  /-- No event is listed. -/
  | idle (h : s.agenda = []) : StepCase s s
  /-- A tick or a byte while `Faulted = 1`. -/
  | ignored (e rest) (hf : s.faulted = true) (h : s.agenda = e :: rest) (he : e = .tick ∨ ∃ b, e = .byte b) :
      StepCase s { s with agenda := rest }
  /-- A tick that extracts no valid frame. -/
  | noFrame (rest o u) (hf : s.faulted = false) (ht : TickNext s rest)
      (hx : tryExtract { s with agenda := rest } = (.noFrame o, u)) : StepCase s (finish o u)
  /-- A tick with a frame whose working buffer is no command, or holds no identifier. -/
  | noCommand (rest n u err) (hf : s.faulted = false) (ht : TickNext s rest)
      (hx : tryExtract { s with agenda := rest } = (.ready n, u)) (hd : decode (wbBytes u) = .error err) :
      StepCase s (if err = .noIdentifier then raiseFault .wbOverread u else finish .noHandler u)
  /-- A tick that runs a command. -/
  | command (rest n u i v) (hf : s.faulted = false) (ht : TickNext s rest)
      (hx : tryExtract { s with agenda := rest } = (.ready n, u)) (hd : decode (wbBytes u) = .ok i)
      (he : exec i u = .next v) : StepCase s (if returnsReboot i then resetRegisters v else v)
  /-- The DMA producer moves. -/
  | byte (b rest) (hf : s.faulted = false) (h : s.agenda = .byte b :: rest) :
      StepCase s (dmaStep b { s with agenda := rest })
  /-- The ports change. -/
  | ports (p rest) (h : s.agenda = .ports p :: rest) : StepCase s { s with agenda := rest, ports := p }
  /-- Power-on. -/
  | powerOn (rest) (h : s.agenda = .powerOn :: rest) : StepCase s (powerOn { s with agenda := rest })

/-- What a tick can do. -/
theorem poll_cases {s t : State} {rest : List EnvEvent} (ht : TickNext s rest)
    (h : poll { s with agenda := rest } = .next t) : StepCase s t := by
  cases hf : s.faulted with
  | true =>
    unfold poll at h
    rw [if_pos (show ({ s with agenda := rest } : State).faulted = true from hf)] at h
    injection h with h
    exact h ▸ .ignored .tick rest hf ht (.inl rfl)
  | false =>
    rcases hx : tryExtract { s with agenda := rest } with ⟨e, u⟩
    cases e with
    | noFrame o =>
      rw [poll_noFrame (s := { s with agenda := rest }) hf hx] at h
      injection h with h
      exact h ▸ .noFrame rest o u hf ht hx
    | ready n =>
      rw [poll_ready (s := { s with agenda := rest }) hf hx] at h
      unfold dispatchWB at h
      split at h
      · rename_i i hd
        cases he : exec i u with
        | next v =>
          rw [he] at h
          injection h with h
          exact h ▸ .command rest n u i v hf ht hx hd he
        | fault r =>
          rw [he] at h
          cases h
        | refused r =>
          rw [he] at h
          cases h
      · rename_i id hd
        injection h with h
        have := StepCase.noCommand rest n u _ hf ht hx hd
        rw [if_neg (by simp)] at this
        exact h ▸ this
      · rename_i hd
        injection h with h
        have := StepCase.noCommand rest n u _ hf ht hx hd
        rw [if_pos rfl] at this
        exact h ▸ this

/-- Every next state of a step is one of these. -/
theorem step_cases {s t : State} (h : step s = .next t) : StepCase s t := by
  unfold step advance at h
  split at h
  · rename_i ha
    injection h with h
    exact h ▸ .idle ha
  · rename_i e rest ha
    cases e with
    | tick => exact poll_cases ha h
    | byte b =>
      injection h with h
      cases hf : s.faulted with
      | true =>
        rw [receive_faulted (s := { s with agenda := rest }) b hf] at h
        exact h ▸ .ignored (.byte b) rest hf ha (.inr ⟨b, rfl⟩)
      | false =>
        rw [receive_running (s := { s with agenda := rest }) b hf] at h
        exact h ▸ .byte b rest hf ha
    | ports p =>
      injection h with h
      exact h ▸ .ports p rest ha
    | powerOn =>
      injection h with h
      exact h ▸ .powerOn rest ha

/-- A step on a tick is a poll of the state with that tick taken. -/
theorem step_tick (s : State) (rest : List EnvEvent) (h : TickNext s rest) :
    step s = poll { s with agenda := rest } := by
  unfold step advance
  rw [h]
  rfl

/-! ### The end of a run -/

/-- `runEnded` is R263 as the statements spell it. -/
theorem runEnded_iff (s : State) : runEnded s = true ↔ RunHasEnded s := by
  have agent : ∀ e : EnvEvent, e.isAgentStep = false ↔ e ≠ .tick ∧ ∀ b, e ≠ .byte b := fun e => by
    cases e <;> simp [EnvEvent.isAgentStep]
  simp [runEnded, RunHasEnded, agent]

/-! ### A run of bytes from the DMA producer -/

/-- A circular write may start from a position reduced before. -/
theorem ringWriteSeq_mod (cap : Nat) (m : Memory) (base : Nat) (bs : List Byte) :
    ringWriteSeq cap m (base % cap) bs = ringWriteSeq cap m base bs := by
  induction bs generalizing m base with
  | nil => rfl
  | cons b bs ih =>
    simp only [ringWriteSeq, ring, Nat.mod_mod]
    rw [← ih _ (base % cap + 1), ← ih _ (base + 1), Nat.mod_add_mod]

/-- The bytes of a run are one circular write from the write cursor. -/
theorem deliver_eq (bs : List Byte) (s : State) (hw : s.wr < s.cfg.cap) :
    deliver bs s =
      { s with rb := ringWriteSeq s.cfg.cap s.rb s.wr bs, wr := (s.wr + bs.length) % s.cfg.cap } := by
  induction bs generalizing s with
  | nil => simp [deliver, ringWriteSeq, Nat.mod_eq_of_lt hw]
  | cons b bs ih =>
    show deliver bs (dmaStep b s) = _
    rw [ih _ (Nat.mod_lt _ (by show 0 < s.cfg.cap; omega))]
    simp only [dmaStep, ringWriteSeq, List.length_cons, ring, Nat.mod_eq_of_lt hw, ringWriteSeq_mod, Nat.mod_add_mod]
    congr 2
    omega

end Sys2Proof.Machine
end

