-- ==== Sys2Proof/Laws/Extractor.lean ====
section
/-! SUPPORT. What the marker scan and an extraction can answer, said once: the provers cite these inversions instead of
unfolding `scan`, `examine` and `consume`. -/

namespace Sys2Proof.Machine

/-! ### Cursor arithmetic -/

/-- The pending count is below the capacity. -/
theorem pend_lt (cap r w : Nat) (h : 0 < cap) : pend cap r w < cap := Nat.mod_lt _ h

/-- Nothing is pending exactly when the cursors are equal. -/
theorem pend_eq_zero_iff (cap r w : Nat) (hr : r < cap) (hw : w < cap) : pend cap r w = 0 ↔ r = w := by
  unfold pend
  by_cases h : r ≤ w
  · have h1 : w + cap - r = (w - r) + cap := by omega
    rw [h1, Nat.add_mod_right, Nat.mod_eq_of_lt (by omega)]
    omega
  · rw [Nat.mod_eq_of_lt (by omega)]
    omega

/-- The write cursor is the read cursor moved past every pending byte. -/
theorem add_pend_mod (cap r w : Nat) (hr : r < cap) (hw : w < cap) : (r + pend cap r w) % cap = w := by
  unfold pend
  by_cases h : r ≤ w
  · have h1 : w + cap - r = (w - r) + cap := by omega
    rw [h1, Nat.add_mod_right, Nat.mod_eq_of_lt (a := w - r) (by omega), Nat.mod_eq_of_lt (by omega)]
    omega
  · rw [Nat.mod_eq_of_lt (a := w + cap - r) (by omega)]
    have h1 : r + (w + cap - r) = w + cap := by omega
    rw [h1, Nat.add_mod_right, Nat.mod_eq_of_lt hw]

/-- Moving the read cursor over `j` pending bytes leaves that many fewer pending. -/
theorem pend_advance (cap r w j : Nat) (hr : r < cap) (hw : w < cap) (hj : j ≤ pend cap r w) :
    pend cap ((r + j) % cap) w = pend cap r w - j := by
  have hlt := pend_lt cap r w (by omega)
  unfold pend at hj hlt ⊢
  by_cases h : r ≤ w
  · have h1 : w + cap - r = (w - r) + cap := by omega
    rw [h1, Nat.add_mod_right, Nat.mod_eq_of_lt (a := w - r) (by omega)] at hj ⊢
    rw [Nat.mod_eq_of_lt (a := r + j) (by omega)]
    have h2 : w + cap - (r + j) = (w - r - j) + cap := by omega
    rw [h2, Nat.add_mod_right, Nat.mod_eq_of_lt (by omega)]
  · rw [Nat.mod_eq_of_lt (a := w + cap - r) (by omega)] at hj ⊢
    by_cases h2 : r + j < cap
    · rw [Nat.mod_eq_of_lt h2]
      by_cases h3 : r + j ≤ w
      · omega
      · rw [Nat.mod_eq_of_lt (by omega)]
        omega
    · have h3 : (r + j) % cap = r + j - cap := by
        rw [Nat.mod_eq_sub_mod (by omega), Nat.mod_eq_of_lt (by omega)]
      rw [h3]
      have h4 : w + cap - (r + j - cap) = (w + cap - r - j) + cap := by omega
      rw [h4, Nat.add_mod_right, Nat.mod_eq_of_lt (by omega)]

/-- When `n` bytes have arrived in an empty ring shorter than its capacity, `n` are pending. -/
theorem pend_after (cap r n : Nat) (hr : r < cap) (hn : n < cap) : pend cap r ((r + n) % cap) = n := by
  unfold pend
  by_cases h : r + n < cap
  · have h1 : r + n + cap - r = n + cap := by omega
    rw [Nat.mod_eq_of_lt h, h1, Nat.add_mod_right, Nat.mod_eq_of_lt hn]
  · have h1 : (r + n) % cap = r + n - cap := by rw [Nat.mod_eq_sub_mod (by omega), Nat.mod_eq_of_lt (by omega)]
    have h2 : r + n - cap + cap - r = n := by omega
    rw [h1, h2, Nat.mod_eq_of_lt hn]

/-! ### The scan -/

/-- The scan reads the ring and the capacity only. -/
theorem scan_congr (s t : State) (hrb : t.rb = s.rb) (hcfg : t.cfg = s.cfg) (n r : Nat) : scan t n r = scan s n r := by
  have hb : ∀ a, rbByte t a = rbByte s a := rbByte_congr hrb
  have hr : ∀ a k, ringByte t a k = ringByte s a k := fun a k => by simp only [ringByte, hcfg, hb]
  induction n generalizing r with
  | zero => rfl
  | succ n ih => simp only [scan, hb, hr, hcfg, ih]

/-- A byte that is not 0xAB is passed. -/
theorem scan_pass (s : State) (n r : Nat) (h : rbByte s r ≠ 0xAB) :
    scan s (n + 1) r = scan s n (ring s.cfg.cap (r + 1)) := by
  rw [scan, if_pos h]

/-- A 0xAB with fewer than 8 bytes pending stops the scan. -/
theorem scan_short (s : State) (n r : Nat) (h : rbByte s r = 0xAB) (h8 : n + 1 < 8) : scan s (n + 1) r = .short r := by
  rw [scan, if_neg (not_not.2 h), if_pos h8]

/-- A start marker with 8 bytes pending stops the scan. -/
theorem scan_header (s : State) (n r : Nat) (h : rbByte s r = 0xAB) (h8 : ¬n + 1 < 8) (hCD : ringByte s r 1 = 0xCD) :
    scan s (n + 1) r = .header r (n + 1) := by
  rw [scan, if_neg (not_not.2 h), if_neg h8, if_pos hCD]

/-- A 0xAB not followed by 0xCD is passed. -/
theorem scan_skip (s : State) (n r : Nat) (h : rbByte s r = 0xAB) (h8 : ¬n + 1 < 8) (hCD : ringByte s r 1 ≠ 0xCD) :
    scan s (n + 1) r = scan s n (ring s.cfg.cap (r + 1)) := by
  rw [scan, if_neg (not_not.2 h), if_neg h8, if_neg hCD]

/-- What the scan of `n` pending bytes from the cursor `r` can answer: every byte was passed; or, after `j` bytes, a
0xAB with fewer than 8 bytes left; or, after `j` bytes, a start marker with at least 8 left. -/
theorem scan_cases (s : State) (n r : Nat) (hr : r < s.cfg.cap) :
    scan s n r = .empty ((r + n) % s.cfg.cap) ∨
    (∃ j, j < n ∧ n - j < 8 ∧ rbByte s ((r + j) % s.cfg.cap) = 0xAB ∧ scan s n r = .short ((r + j) % s.cfg.cap)) ∨
    (∃ j, j < n ∧ 8 ≤ n - j ∧ rbByte s ((r + j) % s.cfg.cap) = 0xAB ∧ ringByte s (r + j) 1 = 0xCD ∧
      scan s n r = .header ((r + j) % s.cfg.cap) (n - j)) := by
  induction n generalizing r with
  | zero => exact .inl (by simp [scan, Nat.mod_eq_of_lt hr])
  | succ n ih =>
    have hr0 : (r + 0) % s.cfg.cap = r := Nat.mod_eq_of_lt hr
    have key : ∀ j, ((r + 1) % s.cfg.cap + j) % s.cfg.cap = (r + (j + 1)) % s.cfg.cap := fun j => by
      rw [Nat.mod_add_mod]
      congr 1
      omega
    have passed : scan s (n + 1) r = scan s n (ring s.cfg.cap (r + 1)) →
        scan s (n + 1) r = .empty ((r + (n + 1)) % s.cfg.cap) ∨
        (∃ j, j < n + 1 ∧ n + 1 - j < 8 ∧ rbByte s ((r + j) % s.cfg.cap) = 0xAB ∧
          scan s (n + 1) r = .short ((r + j) % s.cfg.cap)) ∨
        (∃ j, j < n + 1 ∧ 8 ≤ n + 1 - j ∧ rbByte s ((r + j) % s.cfg.cap) = 0xAB ∧ ringByte s (r + j) 1 = 0xCD ∧
          scan s (n + 1) r = .header ((r + j) % s.cfg.cap) (n + 1 - j)) := by
      intro hstep
      rw [hstep]
      rcases ih (ring s.cfg.cap (r + 1)) (Nat.mod_lt _ (by omega)) with h | ⟨j, h1, h2, h3, h4⟩ | ⟨j, h1, h2, h3, h4, h5⟩
      · exact .inl (by rw [h, ring, key])
      · rw [ring, key] at h3 h4
        exact .inr (.inl ⟨j + 1, by omega, by omega, h3, h4⟩)
      · rw [ring, key] at h3 h5
        refine .inr (.inr ⟨j + 1, by omega, by omega, h3, ?_, ?_⟩)
        · have h6 : ringByte s ((r + 1) % s.cfg.cap + j) 1 = ringByte s (r + (j + 1)) 1 := by
            rw [ringByte_add, ringByte_mod, ← ringByte_add]
            congr 1
            omega
          rw [← h6]
          exact h4
        · rw [ring, h5]
          congr 1
          omega
    by_cases hAB : rbByte s r = 0xAB
    · by_cases h8 : n + 1 < 8
      · refine .inr (.inl ⟨0, by omega, by omega, by rw [hr0]; exact hAB, ?_⟩)
        rw [hr0]
        exact scan_short s n r hAB h8
      · by_cases hCD : ringByte s r 1 = 0xCD
        · refine .inr (.inr ⟨0, by omega, by omega, by rw [hr0]; exact hAB, hCD, ?_⟩)
          rw [hr0]
          exact scan_header s n r hAB h8 hCD
        · exact passed (scan_skip s n r hAB h8 hCD)
    · exact passed (scan_pass s n r hAB)

/-! ### Extraction -/

/-- The body a consumed frame leaves in the working buffer, in the mode its raw identifier selects. -/
def frameMode (s : State) (r size : Nat) : Bool :=
  modeAfter s.cfg.resumeId (le16 (ringBytes s (r + 4) (size + 2)) 0) s.isEncrypted

/-- See `frameMode`. -/
def frameBody (s : State) (r size : Nat) : List Byte :=
  codec s.cfg (frameMode s r size) (ringBytes s (r + 4) (size + 2))

@[simp] theorem length_frameBody (s : State) (r size : Nat) : (frameBody s r size).length = size + 2 := by
  simp [frameBody]

/-- The state after a frame is consumed, whatever its CRC says. -/
def consumed (s : State) (r size : Nat) : State :=
  { s with
    rb := ringWriteSeq s.cfg.cap s.rb r (List.replicate (size + 8) 0)
    rd := (r + size + 8) % s.cfg.cap
    wb := Memory.writeSeq (workBlank s.cfg) s.wb 0 (frameBody s r size)
    isEncrypted := frameMode s r size }

/-- `consume` in terms of its result state and its CRC verdict. -/
theorem consume_eq (s : State) (r size : Nat) :
    consume s r size =
      (if verifyCrc s.cfg size (frameBody s r size) then .ready size else .noFrame .noneCrc, consumed s r size) := by
  unfold consume frameBody frameMode consumed
  dsimp only
  split <;> rfl

/-- The answers of an extraction. -/
inductive ExtractionCase (s : State) : Extraction → State → Prop where
  /-- The scan passed every pending byte. -/
  | empty (r : Nat) (h : scan s (pend s.cfg.cap s.rd s.wr) s.rd = .empty r) :
      ExtractionCase s (.noFrame .noneEmpty) { s with rd := r }
  /-- The scan stopped at a 0xAB with fewer than 8 bytes pending. -/
  | short (r : Nat) (h : scan s (pend s.cfg.cap s.rd s.wr) s.rd = .short r) :
      ExtractionCase s (.noFrame .noneIncomplete) { s with rd := r }
  /-- A header gives a size the ring cannot hold. -/
  | oversize (r n : Nat) (h : scan s (pend s.cfg.cap s.rd s.wr) s.rd = .header r n)
      (hs : s.cfg.cap < (ringLe16 s r 2).toNat + 8) :
      ExtractionCase s (.noFrame (.noneOversize (ringLe16 s r 2).toNat)) { s with rd := s.wr }
  /-- A header's frame is not yet whole. -/
  | incomplete (r n : Nat) (h : scan s (pend s.cfg.cap s.rd s.wr) s.rd = .header r n)
      (hs : (ringLe16 s r 2).toNat + 8 ≤ s.cfg.cap) (hn : n < (ringLe16 s r 2).toNat + 8) :
      ExtractionCase s (.noFrame .noneIncomplete) { s with rd := r }
  /-- A frame's end marker is wrong. -/
  | badEnd (r n : Nat) (h : scan s (pend s.cfg.cap s.rd s.wr) s.rd = .header r n)
      (hs : (ringLe16 s r 2).toNat + 8 ≤ s.cfg.cap) (hn : (ringLe16 s r 2).toNat + 8 ≤ n)
      (he : ringByte s r ((ringLe16 s r 2).toNat + 6) ≠ 0xDC ∨ ringByte s r ((ringLe16 s r 2).toNat + 7) ≠ 0xBA) :
      ExtractionCase s (.noFrame .noneBadEnd) { s with rd := s.wr }
  /-- A frame was consumed and its CRC failed. -/
  | crc (r n : Nat) (h : scan s (pend s.cfg.cap s.rd s.wr) s.rd = .header r n)
      (hs : (ringLe16 s r 2).toNat + 8 ≤ s.cfg.cap) (hn : (ringLe16 s r 2).toNat + 8 ≤ n)
      (hdc : ringByte s r ((ringLe16 s r 2).toNat + 6) = 0xDC) (hba : ringByte s r ((ringLe16 s r 2).toNat + 7) = 0xBA)
      (hc : verifyCrc s.cfg (ringLe16 s r 2).toNat (frameBody s r (ringLe16 s r 2).toNat) = false) :
      ExtractionCase s (.noFrame .noneCrc) (consumed s r (ringLe16 s r 2).toNat)
  /-- A frame was consumed and its CRC matched. -/
  | ready (r n : Nat) (h : scan s (pend s.cfg.cap s.rd s.wr) s.rd = .header r n)
      (hs : (ringLe16 s r 2).toNat + 8 ≤ s.cfg.cap) (hn : (ringLe16 s r 2).toNat + 8 ≤ n)
      (hdc : ringByte s r ((ringLe16 s r 2).toNat + 6) = 0xDC) (hba : ringByte s r ((ringLe16 s r 2).toNat + 7) = 0xBA)
      (hc : verifyCrc s.cfg (ringLe16 s r 2).toNat (frameBody s r (ringLe16 s r 2).toNat) = true) :
      ExtractionCase s (.ready (ringLe16 s r 2).toNat) (consumed s r (ringLe16 s r 2).toNat)

/-- Every extraction is one of the seven cases. -/
theorem tryExtract_cases (s : State) : ExtractionCase s (tryExtract s).1 (tryExtract s).2 := by
  unfold tryExtract
  generalize h : scan s (pend s.cfg.cap s.rd s.wr) s.rd = r
  cases r with
  | empty r => exact .empty r h
  | short r => exact .short r h
  | header r n =>
    simp only [examine]
    split
    · exact .oversize r n h ‹_›
    · split
      · exact .incomplete r n h (by omega) ‹_›
      · split
        · exact .badEnd r n h (by omega) (by omega) ‹_›
        · rename_i hend
          have hend' := not_or.1 hend
          have hdc := not_not.1 hend'.1
          have hba := not_not.1 hend'.2
          rw [consume_eq]
          cases hc : verifyCrc s.cfg (ringLe16 s r 2).toNat (frameBody s r (ringLe16 s r 2).toNat) with
          | false => exact .crc r n h (by omega) (by omega) hdc hba hc
          | true => exact .ready r n h (by omega) (by omega) hdc hba hc

/-- The same, of a named answer. -/
theorem ExtractionCase.of_eq {s t : State} {e : Extraction} (h : tryExtract s = (e, t)) : ExtractionCase s e t := by
  have := tryExtract_cases s
  rwa [h] at this

/-! ### A frame at a start marker -/

/-- Where the scan stops at a start marker, it is at a pending byte, with 8 or more left. -/
theorem scan_header_at (s : State) (hr : s.rd < s.cfg.cap) (r n : Nat)
    (h : scan s (pend s.cfg.cap s.rd s.wr) s.rd = .header r n) :
    ∃ j, j < pend s.cfg.cap s.rd s.wr ∧ n = pend s.cfg.cap s.rd s.wr - j ∧ r = (s.rd + j) % s.cfg.cap ∧
      rbByte s r = 0xAB ∧ ringByte s (s.rd + j) 1 = 0xCD ∧ 8 ≤ n := by
  rcases scan_cases s (pend s.cfg.cap s.rd s.wr) s.rd hr with h' | ⟨j, _, _, _, h'⟩ | ⟨j, h1, h2, h3, h4, h'⟩
  · rw [h'] at h
    cases h
  · rw [h'] at h
    cases h
  · rw [h'] at h
    injection h with ha hb
    subst ha hb
    exact ⟨j, h1, rfl, rfl, h3, h4, h2⟩

/-- A complete frame with its end marker in place is consumed. -/
theorem examine_whole (s : State) (w r n size : Nat) (hs : size = (ringLe16 s r 2).toNat) (h1 : size + 8 ≤ s.cfg.cap)
    (h2 : size + 8 ≤ n) (h3 : ringByte s r (size + 6) = 0xDC) (h4 : ringByte s r (size + 7) = 0xBA) :
    examine s w r n = consume s r size := by
  subst hs
  unfold examine
  simp only
  rw [if_neg (by omega), if_neg (by omega), if_neg]
  rintro (h | h)
  · exact h h3
  · exact h h4

/-- A length field may be read from a position reduced before. -/
theorem ringLe16_mod (s : State) (r k : Nat) : ringLe16 s (r % s.cfg.cap) k = ringLe16 s r k := by
  unfold ringLe16
  rw [ringByte_mod, ringByte_mod]

/-- Inside a consumed frame the ring holds 0x00. -/
theorem ringByte_consumed (s : State) (r size k : Nat) (hs : size + 8 ≤ s.cfg.cap) (hk : k < size + 8) :
    ringByte (consumed s r size) r k = 0 := by
  unfold ringByte rbByte ring consumed
  simp only
  rw [read_ringWriteSeq_inside _ _ _ _ _ (by simpa using hs) (by simpa using hk)]
  exact byteAt_replicate_zero _ _

/-- Outside a consumed frame the ring is unchanged. -/
theorem rbByte_consumed (s : State) (r size a : Nat) (h : ∀ k, k < size + 8 → a ≠ (r + k) % s.cfg.cap) :
    rbByte (consumed s r size) a = rbByte s a := by
  unfold rbByte consumed
  simp only
  rw [read_ringWriteSeq_outside _ _ _ _ _ (by simpa using h)]

/-- The working buffer after a frame is consumed: its body, then the bytes retained. -/
theorem wbByte_consumed (s : State) (r size k : Nat) :
    wbByte (consumed s r size) k = if k < size + 2 then byteAt (frameBody s r size) k else wbByte s k := by
  have h := wbByte_writeSeq s (frameBody s r size) k
  rw [length_frameBody] at h
  exact h

end Sys2Proof.Machine
end

