-- ==== Sys2Proof/Laws/PerInstr.lean ====
section
/-! SUPPORT. Statements made once for each command: the length of its payload (spec 30_encoding.md R85 to R90). -/

namespace Sys2Proof.Laws.EncodeLength

/-- The payload length the layout rule of each command gives. -/
def payloadLength : Instr → Nat
  | .sessionStart _ _ => 8
  | .memRead _ _ _ _ _ => 12
  | .memWrite _ _ count _ _ _ => 12 + 8 * (count.toNat / 8)
  | .nop051F _ => 4
  | .nop0521 _ => 4
  | .rfStatus _ => 4
  | .battStatus _ => 4
  | .authResponse _ _ => 20
  | .factoryReset _ _ => 8
  | .rebootBl _ => 4

/-- A well-formed command is encoded in a payload of its rule's length. -/
def Statement (i : Instr) : Prop := i.WellFormed = true → (encode i).length = payloadLength i

theorem sessionStart (l : Half) (ts : Word) : Statement (.sessionStart l ts) := fun _ => rfl

theorem memRead (l off : Half) (n pad : Byte) (ts : Word) : Statement (.memRead l off n pad ts) := fun _ => rfl

theorem memWrite (l off : Half) (n allow : Byte) (ts : Word) (data : List Byte) :
    Statement (.memWrite l off n allow ts data) := by
  intro h
  have hl : data.length = 8 * (n.toNat / 8) := by simpa [Instr.WellFormed, dataLength] using h
  simp [encode, encodeFields, bytes16, bytes32, payloadLength, hl]
  omega

theorem nop051F (l : Half) : Statement (.nop051F l) := fun _ => rfl

theorem nop0521 (l : Half) : Statement (.nop0521 l) := fun _ => rfl

theorem rfStatus (l : Half) : Statement (.rfStatus l) := fun _ => rfl

theorem battStatus (l : Half) : Statement (.battStatus l) := fun _ => rfl

theorem authResponse (l : Half) (r : Block) : Statement (.authResponse l r) := fun _ => rfl

theorem factoryReset (l : Half) (ts : Word) : Statement (.factoryReset l ts) := fun _ => rfl

theorem rebootBl (l : Half) : Statement (.rebootBl l) := fun _ => rfl

end Sys2Proof.Laws.EncodeLength
end

