-- ==== Sys2Proof/Tests/Slice0.lean ====
section
/-! SUPPORT. The model's own tests. Expected values are those of spec/95_test_vectors.md (named at each test) or are
written out by hand from the rule named there. The last part gives, for every statement with hypotheses, a concrete
state and operands that meet them together. -/

namespace Sys2Proof.Tests

open Sys2Proof.Machine

-- One small kernel evaluation after another: it bounds the memory this file takes.
set_option Elab.async false

/-! ### Test machines -/

/-- The parameters of the spec's vectors (95_test_vectors.md TA1 to TA8). -/
def vecCfg : Params :=
  { Params.defaults with
    aesEnc := .aes128
    defaultKey := { w0 := 0x03020100, w1 := 0x07060504, w2 := 0x0B0A0908, w3 := 0x0F0E0D0C }
    version := [0x4F, 0x45, 0x46, 0x57, 0x2D, 0x54, 0x45, 0x53, 0x54]
    storageModel := .image }

/-- The challenge C0 of TA7. -/
def c0 : Block := { w0 := 0x33221100, w1 := 0x77665544, w2 := 0xBBAA9988, w3 := 0xFFEEDDCC }

/-- The response Q0 of V4.1. -/
def q0 : Block := { w0 := 0xD8E0C469, w1 := 0x30047B6A, w2 := 0x80B7CDD8, w3 := 0x5AC5B470 }

/-- The custom key CK of V4.3. -/
def ck : Block := { w0 := 0x11111111, w1 := 0x22222222, w2 := 0x33333333, w3 := 0x44444444 }

/-- The response RC of V4.3. -/
def rc : Block := { w0 := 0xAC995E9D, w1 := 0x3A7F8683, w2 := 0xE519F4F1, w3 := 0x83ED6D07 }

/-- Four zero words. -/
def zeros : Block := { w0 := 0, w1 := 0, w2 := 0, w3 := 0 }

/-- The state S0 of the vectors, with the ports of TA8 and the storage bytes they read, and a tick next. -/
def s0 : State :=
  { State.reset with
    cfg := vecCfg
    challenge := c0
    ports := { Ports.idle with rssi := 0x0123, noise := 0x05, voltage := 0x0320 }
    store := [(0x10, 0xDE), (0x11, 0xAD), (0x12, 0xBE), (0x13, 0xEF)]
    agenda := [.tick] }

/-- The registers of the state S1 of the vectors. -/
def s1 : State := { s0 with isEncrypted := false, timestamp := 0x12345678, rd := 16, wr := 16 }

/-- A small machine for the witnesses: a ring of 64 bytes. -/
def smallCfg : Params := { vecCfg with cap := 64, wbCap := 64, wbReset := List.replicate 64 0, maxReadLen := 16 }

/-- A small machine at rest, its cursors at `r`. -/
def small (r : Nat) : State := { s0 with cfg := smallCfg, rd := r, wr := r }

/-- The small machine with these bytes pending from `r`. -/
def pending (r : Nat) (bytes : List Byte) : State := deliver bytes (small r)

/-- The next state of an outcome. -/
def nextOf : Host.Outcome State Fault Refusal → Option State
  | .next t => some t
  | .fault _ => none
  | .refused _ => none

/-- What the next step leaves in the outcome, the transmit stream and the event log. -/
def seen (s : State) : Option (Option PollOutcome × List Byte × List OutEvent) :=
  (nextOf (step s)).map fun t => (t.lastOutcome, t.tx, t.ev)

/-- The same, after one command in S1 or a variant of it. -/
def ran (i : Instr) (s : State) : Option (Option PollOutcome × List Byte × List OutEvent) :=
  (nextOf (exec i s)).map fun t => (t.lastOutcome, t.tx, t.ev)

/-! ### Well-formedness -/

/-- A MEM_WRITE of 8 bytes with 7 data bytes is ill-formed (R87). -/
theorem test_wellFormed_refuses_short_data : (Instr.memWrite 0 0 8 0 0 (List.replicate 7 0)).WellFormed = false := by
  decide

/-- A MEM_WRITE of 7 bytes with data is ill-formed: it has no whole chunk (R87). -/
theorem test_wellFormed_refuses_partial_chunk : (Instr.memWrite 0 0 7 0 0 (List.replicate 7 0)).WellFormed = false := by
  decide

/-! ### Decoding: payloads written out from 30_encoding.md R85 to R90 -/

theorem test_decode_sessionStart :
    decode [0x14, 0x05, 0x04, 0x00, 0x78, 0x56, 0x34, 0x12] = .ok (.sessionStart 4 0x12345678) := rfl

theorem test_decode_memRead :
    decode [0x1B, 0x05, 0x08, 0x00, 0x10, 0x0F, 0x04, 0x99, 0x78, 0x56, 0x34, 0x12] =
      .ok (.memRead 8 0x0F10 4 0x99 0x12345678) := rfl

theorem test_decode_memWrite :
    decode [0x1D, 0x05, 0x10, 0x00, 0x30, 0x0F, 0x08, 0x01, 0x78, 0x56, 0x34, 0x12, 1, 2, 3, 4, 5, 6, 7, 8, 9] =
      .ok (.memWrite 16 0x0F30 8 1 0x12345678 [1, 2, 3, 4, 5, 6, 7, 8]) := rfl

theorem test_decode_nop051F : decode [0x1F, 0x05, 0x01, 0x02] = .ok (.nop051F 0x0201) := rfl

theorem test_decode_nop0521 : decode [0x21, 0x05, 0x00, 0x00] = .ok (.nop0521 0) := rfl

theorem test_decode_rfStatus : decode [0x27, 0x05, 0x00, 0x00] = .ok (.rfStatus 0) := rfl

theorem test_decode_battStatus : decode [0x29, 0x05, 0x00, 0x00] = .ok (.battStatus 0) := rfl

theorem test_decode_authResponse :
    decode [0x2D, 0x05, 0x10, 0x00, 1, 0, 0, 0, 2, 0, 0, 0, 3, 0, 0, 0, 4, 0, 0, 0x80] =
      .ok (.authResponse 16 { w0 := 1, w1 := 2, w2 := 3, w3 := 0x80000004 }) := rfl

theorem test_decode_factoryReset :
    decode [0x2F, 0x05, 0x04, 0x00, 0xEF, 0xBE, 0x00, 0x00] = .ok (.factoryReset 4 0x0000BEEF) := rfl

theorem test_decode_rebootBl : decode [0xDD, 0x05, 0x00, 0x00] = .ok (.rebootBl 0) := rfl

/-- A reply identifier is no command (R2, R100). -/
theorem test_decode_reply_id_unrecognised : decode [0x15, 0x05, 0x24, 0x00] = .error (.unrecognised 0x0515) := rfl

/-- The table's words (opcode_table.json). -/
theorem test_decodeTableWord :
    [0x0514, 0x051B, 0x051D, 0x051F, 0x0521, 0x0527, 0x0529, 0x052D, 0x052F, 0x05DD, 0x0515].map
        (decodeTableWord 16) =
      [some (.sessionStart 0 0), some (.memRead 0 0 0 0 0), some (.memWrite 0 0 0 0 0 []), some (.nop051F 0),
       some (.nop0521 0), some (.rfStatus 0), some (.battStatus 0), some (.authResponse 0 zeros),
       some (.factoryReset 0 0), some (.rebootBl 0), none] := by
  decide +kernel

/-- Each word of the table runs as the first command after reset. -/
theorem test_withFetchWord_runs :
    [0x0514, 0x051B, 0x051D, 0x051F, 0x0521, 0x0527, 0x0529, 0x052F, 0x05DD].map
        (fun w => (nextOf (step (State.reset.withFetchWord 16 w))).map (·.lastOutcome)) =
      [some (some .replied), some (some .replied), some (some .replied), some (some .noAction), some (some .noAction),
       some (some .replied), some (some .replied), some (some .replied), some (some .reboot)] := by
  decide +kernel

/-- AUTH_RESPONSE runs too (under the opaque cipher its verdict is not known, that it completes is). -/
theorem test_withFetchWord_runs_authResponse :
    (nextOf (step (State.reset.withFetchWord 16 0x052D))).isSome = true := by
  decide +kernel

/-! ### Codec and CRC -/

/-- V1.1. -/
theorem test_obfuscate :
    obfuscate vecCfg (List.replicate 18 0) =
      [0x16, 0x6C, 0x14, 0xE6, 0x2E, 0x91, 0x0D, 0x40, 0x21, 0x35, 0xD5, 0x40, 0x13, 0x03, 0xE9, 0x80, 0x16, 0x6C] := by
  decide +kernel

/-- V1.4, at L = 0, 8, 15 and 40. -/
theorem test_footer :
    [0, 8, 15, 40].map (footer vecCfg true) = [[0xE9, 0x93], [0xDE, 0xCA], [0x7F, 0xE9], [0xDE, 0xCA]] := by
  decide +kernel

/-- V2.1. -/
theorem test_crc :
    [[], [0x31, 0x32, 0x33, 0x34, 0x35, 0x36, 0x37, 0x38, 0x39], [0xFF], [0x14, 0x05, 0x04, 0x00, 0x78, 0x56, 0x34, 0x12]].map
      (crc16 vecCfg) = [0x0000, 0x31C3, 0x1EF0, 0x9D25] := by
  decide +kernel

/-! ### The extractor -/

/-- V3.2: MEM_READ obfuscated, split by the wrap at several offsets of the frame. -/
theorem test_extract_wrapped :
    [235, 240, 246, 254, 255, 0].map (fun r =>
        let t := (tryExtract (deliver [0xAB, 0xCD, 0x0C, 0x00, 0x0D, 0x69, 0x1C, 0xE6, 0x3E, 0x91, 0x09, 0x40, 0x21, 0x35,
          0xD5, 0x40, 0x24, 0xD2, 0xDC, 0xBA] { s0 with rd := r, wr := r })).2
        (t.rd, (wbBytes t).take 14)) =
      [(255, 0), (4, 0), (10, 0), (18, 0), (19, 0), (20, 0)].map (fun p : Nat × Nat =>
        (p.1, [0x1B, 0x05, 0x08, 0x00, 0x10, 0x00, 0x04, 0x00, 0x00, 0x00, 0x00, 0x00, 0x37, 0xD1])) := by
  decide +kernel

/-- V3.3: oversize, also where `Size + 8` passes 16 bits. -/
theorem test_extract_oversize :
    seen (deliver [0xAB, 0xCD, 0xF9, 0x00, 0, 0, 0, 0] s0) = some (some (.noneOversize 249), [], []) ∧
    seen (deliver [0xAB, 0xCD, 0xFF, 0xFF, 0, 0, 0, 0] s0) = some (some (.noneOversize 65535), [], []) := by
  decide +kernel

/-- V3.6 (c): a stray 0xAB before an encrypted NOP_051F. -/
theorem test_extract_stray_marker :
    seen (deliver [0xAB, 0xAB, 0xCD, 0x02, 0x00, 0x09, 0x69, 0xFC, 0xA5, 0xDC, 0xBA] s0) =
      some (some .noAction, [], []) := by
  decide +kernel

/-- V3.7: a bad end marker drops the good frame behind it too. -/
theorem test_extract_bad_end :
    (tryExtract (deliver [0xAB, 0xCD, 0x02, 0x00, 0x1F, 0x05, 0xE8, 0x43, 0x00, 0xBA, 0xAB, 0xCD, 0x02, 0x00, 0x1F, 0x05,
      0xE8, 0x43, 0xDC, 0xBA] s0)).1 = .noFrame .noneBadEnd ∧
    (tryExtract (deliver [0xAB, 0xCD, 0x02, 0x00, 0x1F, 0x05, 0xE8, 0x43, 0x00, 0xBA, 0xAB, 0xCD, 0x02, 0x00, 0x1F, 0x05,
      0xE8, 0x43, 0xDC, 0xBA] s0)).2.rd = 20 := by
  decide +kernel

/-- V3.8: a frame that fails its CRC has toggled the mode. -/
theorem test_extract_crc_failure_toggles :
    (tryExtract (deliver [0xAB, 0xCD, 0x08, 0x00, 0x14, 0x05, 0x04, 0x00, 0x78, 0x56, 0x34, 0x12, 0x25, 0x9E, 0xDC,
      0xBA] s0)).1 = .noFrame .noneCrc ∧
    (tryExtract (deliver [0xAB, 0xCD, 0x08, 0x00, 0x14, 0x05, 0x04, 0x00, 0x78, 0x56, 0x34, 0x12, 0x25, 0x9E, 0xDC,
      0xBA] s0)).2.isEncrypted = false := by
  decide +kernel

/-! ### The authenticator -/

/-- V4.1 and V4.3. -/
theorem test_aes : aes128 vecCfg.defaultKey c0 = q0 ∧ aes128 ck c0 = rc := by decide +kernel

/-- V4.4, in the order of its rows: custom key present, `FAC` and `Locked` before, response; `Locked` and `FAC`
after. -/
theorem test_authenticate :
    [(false, 0, false, q0), (false, 0, false, zeros), (false, 2, true, q0), (false, 2, true, zeros),
     (false, 3, true, q0), (true, 0, true, rc), (true, 2, true, rc), (true, 2, true, q0), (true, 1, true, zeros),
     (true, 3, true, rc), (false, 1, true, rc)].map (fun (v : Bool × BitVec 2 × Bool × Block) =>
        let t := authenticate v.2.2.2
          { s0 with customKeyPresent := v.1, customKey := ck, fac := v.2.1, locked := v.2.2.1 }
        (t.locked, t.fac)) =
      [(false, 0), (true, 1), (false, 0), (true, 3), (true, 3), (false, 0), (false, 2), (false, 0), (true, 2),
       (true, 3), (true, 2)] := by
  decide +kernel

/-- V4.4 row 1 as a command: the lock-status reply says unlocked, and its last three bytes are draws. -/
theorem test_authResponse :
    (ran (.authResponse 16 q0) s1).map (fun o => (o.1, o.2.1.take 9)) =
      some (some .replied, [0xAB, 0xCD, 0x08, 0x00, 0x2E, 0x05, 0x04, 0x00, 0x00]) := by
  decide +kernel

/-! ### The commands: section 5 of the vectors -/

/-- P1 step 1, from the wire: SESSION_START in plaintext (the bytes that are draws left out). -/
theorem test_sessionStart :
    (seen (deliver [0xAB, 0xCD, 0x08, 0x00, 0x14, 0x05, 0x04, 0x00, 0x78, 0x56, 0x34, 0x12, 0x25, 0x9D, 0xDC, 0xBA]
        s0)).map (fun o => (o.1, o.2.1.take 18, (o.2.1.drop 24).take 2, o.2.1.drop 28)) =
      some (some .replied,
        [0xAB, 0xCD, 0x28, 0x00, 0x15, 0x05, 0x24, 0x00, 0x4F, 0x45, 0x46, 0x57, 0x2D, 0x54, 0x45, 0x53, 0x54, 0x00],
        [0x00, 0x00],
        [0x00, 0x11, 0x22, 0x33, 0x44, 0x55, 0x66, 0x77, 0x88, 0x99, 0xAA, 0xBB, 0xCC, 0xDD, 0xEE, 0xFF, 0xFF, 0xFF,
         0xDC, 0xBA]) := by
  decide +kernel

/-- P5, from the wire: an obfuscated SESSION_START resumes encrypted mode, and its reply is obfuscated. -/
theorem test_sessionStart_resumes :
    (nextOf (step (deliver [0xAB, 0xCD, 0x08, 0x00, 0x02, 0x69, 0x10, 0xE6, 0x23, 0x61, 0xF3, 0x8A, 0xE2, 0xEA, 0xDC, 0xBA]
        s1))).map (fun t => ((t.isEncrypted, t.timestamp, t.rd), t.tx.take 10)) =
      some ((true, 0xCAFEF00D, 32), [0xAB, 0xCD, 0x28, 0x00, 0x03, 0x69, 0x30, 0xE6, 0x61, 0xD4]) := by
  decide +kernel

/-- V5.1. -/
theorem test_memRead :
    ran (.memRead 8 0x0010 4 0 0x12345678) s1 =
      some (some .replied,
        [0xAB, 0xCD, 0x0C, 0x00, 0x1C, 0x05, 0x08, 0x00, 0x10, 0x00, 0x04, 0x00, 0xDE, 0xAD, 0xBE, 0xEF, 0xFF, 0xFF,
         0xDC, 0xBA], [.storeRd 0x0010 4]) := by
  decide +kernel

/-- V5.4 and V5.6: denied, and too long. -/
theorem test_memRead_stops :
    ran (.memRead 8 0x0010 4 0 0x12345678) { s1 with locked := true } =
      some (some .denied,
        [0xAB, 0xCD, 0x0C, 0x00, 0x1C, 0x05, 0x08, 0x00, 0x10, 0x00, 0x04, 0x00, 0x00, 0x00, 0x00, 0x00, 0xFF, 0xFF,
         0xDC, 0xBA], []) ∧
    ran (.memRead 8 0x0010 129 0 0x12345678) s1 = some (some (.fault .readTooLong), [], []) := by
  decide +kernel

/-- V5.11: the chunk offset wraps. -/
theorem test_memWrite_wraps :
    ran (.memWrite 28 0xFFFC 16 0 0x12345678 [0, 1, 2, 3, 4, 5, 6, 7, 8, 9, 10, 11, 12, 13, 14, 15]) s1 =
      some (some .replied,
        [0xAB, 0xCD, 0x06, 0x00, 0x1E, 0x05, 0x02, 0x00, 0xFC, 0xFF, 0xFF, 0xFF, 0xDC, 0xBA],
        [.storeWr 0xFFFC [0, 1, 2, 3, 4, 5, 6, 7], .storeWr 0x0004 [8, 9, 10, 11, 12, 13, 14, 15]]) := by
  decide +kernel

/-- V5.8, then the example of R187: the password window is skipped; two calibration chunks reinitialise once. -/
theorem test_memWrite_windows :
    ran (.memWrite 20 0x0E98 8 0 0x12345678 [0, 1, 2, 3, 4, 5, 6, 7]) { s1 with ports := { s1.ports with lockScreen := true } } =
      some (some .replied, [0xAB, 0xCD, 0x06, 0x00, 0x1E, 0x05, 0x02, 0x00, 0x98, 0x0E, 0xFF, 0xFF, 0xDC, 0xBA], []) ∧
    ran (.memWrite 28 0x0F30 16 0 0x12345678 (List.replicate 16 7)) s1 =
      some (some .replied, [0xAB, 0xCD, 0x06, 0x00, 0x1E, 0x05, 0x02, 0x00, 0x30, 0x0F, 0xFF, 0xFF, 0xDC, 0xBA],
        [.storeWr 0x0F30 (List.replicate 8 7), .storeWr 0x0F38 (List.replicate 8 7), .storeReinit]) := by
  decide +kernel

/-- V5.13. -/
theorem test_nops : ran (.nop0521 0) s1 = some (some .noAction, [], []) ∧
    ran (.nop051F 0) s1 = some (some .noAction, [], []) := by
  decide +kernel

/-- V5.14. -/
theorem test_rfStatus :
    ran (.rfStatus 0) s1 =
      some (some .replied, [0xAB, 0xCD, 0x08, 0x00, 0x28, 0x05, 0x04, 0x00, 0x23, 0x01, 0x05, 0x00, 0xFF, 0xFF, 0xDC, 0xBA],
        []) := by
  decide +kernel

/-- V5.15. -/
theorem test_battStatus :
    ran (.battStatus 0) s1 =
      some (some .replied, [0xAB, 0xCD, 0x08, 0x00, 0x2A, 0x05, 0x04, 0x00, 0x20, 0x03, 0x00, 0x00, 0xFF, 0xFF, 0xDC, 0xBA],
        []) := by
  decide +kernel

/-- V5.16. -/
theorem test_factoryReset :
    (nextOf (exec (.factoryReset 4 0xBEEF) s1)).map (fun t => (t.timestamp, t.ev)) =
      some (0xBEEF, [.factoryDefaults, .pwrsaveExit]) := by
  decide +kernel

/-- V5.18, from the wire: the poll of a REBOOT_BL frame ends in the reset values. -/
theorem test_rebootBl :
    (nextOf (step (deliver (commandFrame vecCfg false [0xDD, 0x05, 0x00, 0x00]) { s1 with fac := 3, locked := true }))).map
        (fun t => ((t.ev, t.fac, t.locked), (t.isEncrypted, t.timestamp), (t.rd, t.wr))) =
      some (([.reboot], 0, false), (true, 0), (0, 0)) := by
  decide +kernel

/-- P5 as a finite run (R263): the obfuscated SESSION_START byte by byte, then a tick. Its end is acceptable, and its
final observation has the session state, `rd`, the ring emptied of the frame and the first bytes of `TX`. -/
theorem test_finiteRun_observes :
    (nextOf (finiteRun
      ([0xAB, 0xCD, 0x08, 0x00, 0x02, 0x69, 0x10, 0xE6, 0x23, 0x61, 0xF3, 0x8A, 0xE2, 0xEA, 0xDC, 0xBA].map .byte ++ [.tick])
        s1)).map (fun t => ((runEnded t, (observe t).session.timestamp, (observe t).session.isEncrypted),
          ((observe t).rd, (observe t).rb.all (· == 0), (observe t).faulted), (observe t).tx.take 4)) =
      some ((true, 0xCAFEF00D, true), (32, true, false), [0xAB, 0xCD, 0x28, 0x00]) := by
  decide +kernel

/-- R263, V5.6: the run ends at the Fault of a MEM_READ too long; the tick and the byte after it are never taken. -/
theorem test_finiteRun_ends_at_fault :
    (nextOf (finiteRun [.tick, .tick, .byte 0xAB] (deliver
      (commandFrame vecCfg false [0x1B, 0x05, 0x08, 0x00, 0x10, 0x00, 0x81, 0x00, 0x78, 0x56, 0x34, 0x12]) s1))).map
        (fun t => ((observe t).faulted, t.agenda, (observe t).tx)) = some (true, [.tick, .byte 0xAB], []) := by
  decide +kernel

/-! ### Witnesses: for each statement with hypotheses, a state and operands that meet them -/

/-- The parameters of the small machine are in range. -/
theorem smallCfg_valid : smallCfg.Valid := ⟨by decide, by decide, by decide, by decide +kernel, by decide⟩

/-- A plaintext command frame of the small machine. -/
def plain (payload : List Byte) : List Byte := commandFrame smallCfg false payload

/-- The small machine with one frame of this payload, obfuscated, pending across the wrap. -/
def framed (payload : List Byte) : State := pending 60 (commandFrame smallCfg true payload)

/-- The answer of an extraction, as a hypothesis names it. -/
theorem extraction_eq (s : State) (e : Extraction) (h : (tryExtract s).1 = e) :
    tryExtract s = (e, (tryExtract s).2) := by
  rw [← h]

/-- A MEM_WRITE with no data, one with a whole chunk, one with the most. -/
theorem witness_DecodeInvertsEncode :
    (Instr.memWrite 0 0 7 0 0 []).WellFormed = true ∧
    (Instr.memWrite 0 0 8 0 0 (List.replicate 8 1)).WellFormed = true ∧
    (Instr.memWrite 0 0 255 0 0 (List.replicate 248 1)).WellFormed = true := by
  decide +kernel

theorem witness_EncodeInvertsDecode :
    decode [0x27, 0x05, 0x03, 0x00] = .ok (.rfStatus 3) ∧
      (encode (.rfStatus 3)).length ≤ [(0x27 : Byte), 0x05, 0x03, 0x00].length := ⟨rfl, by decide⟩

/-- Two bytes are enough; each of the ten identifiers, and one next to them that is none. -/
theorem witness_IdentifierSelectsCommandAndFields :
    2 ≤ [(0x14 : Byte), 0x05].length ∧
    [[0x14, 0x05], [0x1B, 0x05], [0x1D, 0x05], [0x1F, 0x05], [0x21, 0x05], [0x27, 0x05], [0x29, 0x05], [0x2D, 0x05],
      [0x2F, 0x05], [0xDD, 0x05]].map (fun bs => le16 bs 0) =
      [(0x0514 : Half), 0x051B, 0x051D, 0x051F, 0x0521, 0x0527, 0x0529, 0x052D, 0x052F, 0x05DD] ∧
    le16 [0x15, 0x05] 0 ∉
      [(0x0514 : Half), 0x051B, 0x051D, 0x051F, 0x0521, 0x0527, 0x0529, 0x052D, 0x052F, 0x05DD] := by
  decide +kernel

/-- Cursors in range, up to the last index. -/
theorem inRange (r : Nat) (hr : r < 64) : CursorsInRange (small r) := ⟨smallCfg_valid, hr, hr⟩

/-- Each clause: nothing pending; a byte that is no marker; a 0xAB with 7 bytes pending; one with 8. -/
theorem witness_ScanPassesBytesOneAtATime :
    CursorsInRange (small 63) ∧ (small 63).rd = (small 63).wr ∧
    ((pending 63 [0x00]).rd ≠ (pending 63 [0x00]).wr ∧ rbByte (pending 63 [0x00]) 63 ≠ 0xAB) ∧
    ((pending 63 [0xAB, 0, 0, 0, 0, 0, 0]).rd = 63 ∧ rbByte (pending 63 [0xAB, 0, 0, 0, 0, 0, 0]) 63 = 0xAB ∧
      pend 64 63 (pending 63 [0xAB, 0, 0, 0, 0, 0, 0]).wr = 7) ∧
    ((pending 63 [0xAB, 0, 0, 0, 0, 0, 0, 0]).rd = 63 ∧ rbByte (pending 63 [0xAB, 0, 0, 0, 0, 0, 0, 0]) 63 = 0xAB ∧
      pend 64 63 (pending 63 [0xAB, 0, 0, 0, 0, 0, 0, 0]).wr = 8 ∧
      ringByte (pending 63 [0xAB, 0, 0, 0, 0, 0, 0, 0]) 63 1 ≠ 0xCD) :=
  ⟨inRange 63 (by decide), rfl, by decide +kernel⟩

/-- The hypotheses of a state with these bytes pending from 60, of which the header says `size`. -/
def headerIs (bytes : List Byte) (size : Nat) : Bool :=
  decide (rbByte (pending 60 bytes) 60 = 0xAB) && decide (ringByte (pending 60 bytes) 60 1 = 0xCD) &&
    decide (8 ≤ pend 64 60 (pending 60 bytes).wr) && decide ((ringLe16 (pending 60 bytes) 60 2).toNat = size)

/-- The clauses at their boundaries: `Size = CAP - 7`; `Size = CAP - 8`; one byte short; a bad byte of each marker;
a whole frame. -/
theorem witness_HeaderChecksRunInOrder :
    headerIs [0xAB, 0xCD, 57, 0, 0, 0, 0, 0] 57 = true ∧ headerIs [0xAB, 0xCD, 56, 0, 0, 0, 0, 0] 56 = true ∧
    headerIs ((plain [0x1F, 0x05]).take 9) 2 = true ∧
    headerIs ((plain [0x1F, 0x05]).take 8 ++ [0x00, 0xBA]) 2 = true ∧
    headerIs ((plain [0x1F, 0x05]).take 8 ++ [0xDC, 0x00]) 2 = true ∧
    headerIs (plain [0x1F, 0x05]) 2 = true ∧
    ringByte (pending 60 (plain [0x1F, 0x05])) 60 8 = 0xDC ∧ ringByte (pending 60 (plain [0x1F, 0x05])) 60 9 = 0xBA := by
  decide +kernel

/-- A whole frame with each of the three raw identifiers: `RESUME_ID`, 0x0514, another. -/
theorem witness_RawIdentifierSelectsCodecMode :
    headerIs (plain [0x02, 0x69]) 2 = true ∧ ringLe16 (pending 60 (plain [0x02, 0x69])) 60 4 = smallCfg.resumeId ∧
    headerIs (plain [0x14, 0x05]) 2 = true ∧ ringLe16 (pending 60 (plain [0x14, 0x05])) 60 4 = 0x0514 ∧
    headerIs (plain [0x1F, 0x05]) 2 = true ∧ ringLe16 (pending 60 (plain [0x1F, 0x05])) 60 4 = 0x051F := by
  decide +kernel

/-- A frame with a bad end marker, and an oversize header. -/
theorem witness_DesyncDiscardsAllPending :
    tryExtract (pending 60 ((plain [0x1F, 0x05]).take 8 ++ [0x00, 0xBA])) =
      (.noFrame .noneBadEnd, (tryExtract (pending 60 ((plain [0x1F, 0x05]).take 8 ++ [0x00, 0xBA]))).2) ∧
    tryExtract (pending 60 [0xAB, 0xCD, 57, 0, 0, 0, 0, 0]) =
      (.noFrame (.noneOversize 57), (tryExtract (pending 60 [0xAB, 0xCD, 57, 0, 0, 0, 0, 0])).2) :=
  ⟨extraction_eq _ _ (by decide +kernel), extraction_eq _ _ (by decide +kernel)⟩

/-- The cursors of the small machine with bytes pending are in range. -/
theorem framed_inRange (payload : List Byte) (h : (framed payload).wr < 64 ∧ (framed payload).rd < 64)
    (hc : (framed payload).cfg = smallCfg) : CursorsInRange (framed payload) :=
  ⟨hc ▸ smallCfg_valid, by rw [hc]; exact h.2, by rw [hc]; exact h.1⟩

/-- A frame that is ready, and one whose CRC fails. -/
theorem witness_ConsumedFrameIsZeroedExactly :
    CursorsInRange (framed [0x1F, 0x05]) ∧
    tryExtract (framed [0x1F, 0x05]) = (.ready 2, (tryExtract (framed [0x1F, 0x05])).2) ∧
    tryExtract (pending 60 [0xAB, 0xCD, 0, 0, 0, 0, 0xDC, 0xBA]) =
      (.noFrame .noneCrc, (tryExtract (pending 60 [0xAB, 0xCD, 0, 0, 0, 0, 0xDC, 0xBA])).2) :=
  ⟨framed_inRange _ (by decide +kernel) rfl, extraction_eq _ _ (by decide +kernel), extraction_eq _ _ (by decide +kernel)⟩

theorem witness_CursorStaysInPendingSpan :
    CursorsInRange (framed [0x1F, 0x05]) ∧
    tryExtract (framed [0x1F, 0x05]) = (.ready 2, (tryExtract (framed [0x1F, 0x05])).2) :=
  ⟨witness_ConsumedFrameIsZeroedExactly.1, witness_ConsumedFrameIsZeroedExactly.2.1⟩

theorem witness_ExtractorWritesOnlyItsRegisters :
    tryExtract (pending 60 [0x00, 0xAB]) = (.noFrame .noneIncomplete, (tryExtract (pending 60 [0x00, 0xAB])).2) ∧
    PollOutcome.noneIncomplete ≠ .noneCrc :=
  ⟨extraction_eq _ _ (by decide +kernel), by decide⟩

/-- The body of NOP_0521 in one mode, for the small machine. -/
def body (m : Bool) : List Byte := codec smallCfg m ([0x21, 0x05] ++ bytes16 (crc16 smallCfg [0x21, 0x05]))

/-- Both modes, across the wrap. -/
theorem witness_FrameIsExtractedAtEverySplit (m : Bool) :
    ∃ s raw, CursorsInRange s ∧ [(0x21 : Byte), 0x05].length + 9 ≤ s.cfg.cap ∧
      raw = (if m then obfuscate s.cfg ([0x21, 0x05] ++ bytes16 (crc16 s.cfg [0x21, 0x05]))
        else [0x21, 0x05] ++ bytes16 (crc16 s.cfg [0x21, 0x05])) ∧
      modeAfter s.cfg.resumeId (le16 raw 0) s.isEncrypted = m ∧
      [(0x21 : Byte), 0x05].length + 8 ≤ pend s.cfg.cap s.rd s.wr ∧
      RingHolds s s.rd ([0xAB, 0xCD] ++ bytes16 (BitVec.ofNat 16 [(0x21 : Byte), 0x05].length) ++ raw ++ [0xDC, 0xBA]) := by
  refine ⟨deliver ([0xAB, 0xCD, 2, 0] ++ body m ++ [0xDC, 0xBA]) { small 60 with isEncrypted := m }, body m, ?_, ?_, ?_,
    ?_, ?_, ?_⟩
  · refine ⟨?_, ?_, ?_⟩
    · cases m <;> exact smallCfg_valid
    · cases m <;> decide +kernel
    · cases m <;> decide +kernel
  · cases m <;> decide +kernel
  · cases m <;> rfl
  · cases m <;> decide +kernel
  · cases m <;> decide +kernel
  · unfold RingHolds
    cases m <;> decide +kernel

/-- A SESSION_START payload. -/
def sessionPayload : List Byte := [0x14, 0x05, 0x04, 0x00, 0x78, 0x56, 0x34, 0x12]

/-- The mode that the raw identifier of this payload's frame, its body in mode `m`, leaves a machine of mode `now` in. -/
def rawModeAfter (m : Bool) (payload : List Byte) (now : Bool) : Bool :=
  modeAfter smallCfg.resumeId (le16 (codec smallCfg m (payload ++ bytes16 (crc16 smallCfg payload))) 0) now

/-- Nothing pending at the last cursor. In the machine's own mode, the longest payload; in the other mode, a session
start both ways: in plaintext to an encrypted machine (P1), obfuscated to a machine in plaintext mode (P5). -/
theorem witness_DeliveredFrameIsExtracted :
    (CursorsInRange (small 63) ∧ (small 63).rd = (small 63).wr ∧ (small 63).isEncrypted = true) ∧
    ((List.replicate 55 (0x21 : Byte)).length + 9 ≤ smallCfg.cap ∧ sessionPayload.length + 9 ≤ smallCfg.cap) ∧
    rawModeAfter true (List.replicate 55 0x21) true = true ∧ rawModeAfter false sessionPayload true = false ∧
    rawModeAfter true sessionPayload false = true :=
  ⟨⟨inRange 63 (by decide), rfl, rfl⟩, by decide +kernel, by decide +kernel, by decide +kernel, by decide +kernel⟩

/-- The most bytes that can be pending, and a header of `CAP - 8`. -/
theorem witness_FrameOfCapMinusEightNeverCompletes :
    CursorsInRange (pending 60 ([0xAB, 0xCD, 56, 0] ++ List.replicate 59 0)) ∧
    HeaderAtRd (pending 60 ([0xAB, 0xCD, 56, 0] ++ List.replicate 59 0)) ∧
    (ringLe16 (pending 60 ([0xAB, 0xCD, 56, 0] ++ List.replicate 59 0)) 60 2).toNat + 8 = 64 := by
  refine ⟨⟨smallCfg_valid, ?_, ?_⟩, ⟨?_, ?_, ?_⟩, ?_⟩ <;> decide +kernel

/-- Both clauses: at the last byte of the ring, and in a faulted machine. -/
theorem witness_DmaStepWritesOneByte :
    (({ small 63 with agenda := [.byte 0xAB, .tick] } : State).agenda = .byte 0xAB :: [.tick] ∧
      (small 63).faulted = false ∧ ∃ t, step { small 63 with agenda := [.byte 0xAB, .tick] } = .next t) ∧
    (raiseFault .wbOverread { small 63 with agenda := [.byte 0xAB] }).agenda = .byte 0xAB :: [] ∧
    (raiseFault .wbOverread { small 63 with agenda := [.byte 0xAB] }).faulted = true ∧
    ∃ t, step (raiseFault .wbOverread { small 63 with agenda := [.byte 0xAB] }) = .next t :=
  ⟨⟨rfl, rfl, _, rfl⟩, rfl, rfl, _, rfl⟩

/-- 10 bytes pending, and 54 more. -/
theorem witness_OverrunHidesAllPending :
    CursorsInRange (framed [0x1F, 0x05]) ∧
    (List.replicate 54 (0 : Byte)).length =
      64 - pend 64 (framed [0x1F, 0x05]).rd (framed [0x1F, 0x05]).wr :=
  ⟨witness_ConsumedFrameIsZeroedExactly.1, by decide +kernel⟩

/-- The small machine with a frame of this payload pending and a tick next, the tick taken. -/
def ticked (payload : List Byte) : State := { framed payload with agenda := [] }

/-- A tick comes next, and no Fault has been raised. -/
theorem framed_tick (payload : List Byte) (h : (framed payload).agenda = [.tick] ∧ (framed payload).faulted = false) :
    TickNext (framed payload) [] ∧ (framed payload).faulted = false := h

/-- RF_STATUS, and REBOOT_BL. -/
theorem witness_StepRunsDecodedCommand :
    (∃ t u, (TickNext (framed [0x27, 0x05, 0, 0]) [] ∧ (framed [0x27, 0x05, 0, 0]).faulted = false) ∧
      tryExtract (ticked [0x27, 0x05, 0, 0]) = (.ready 4, t) ∧ decode (wbBytes t) = .ok (.rfStatus 0) ∧
      exec (.rfStatus 0) t = .next u) ∧
    ∃ t u, (TickNext (framed [0xDD, 0x05, 0, 0]) [] ∧ (framed [0xDD, 0x05, 0, 0]).faulted = false) ∧
      tryExtract (ticked [0xDD, 0x05, 0, 0]) = (.ready 4, t) ∧ decode (wbBytes t) = .ok (.rebootBl 0) ∧
      exec (.rebootBl 0) t = .next u :=
  ⟨⟨_, _, framed_tick _ (by decide +kernel), extraction_eq _ _ (by decide +kernel), by decide +kernel, rfl⟩,
   ⟨_, _, framed_tick _ (by decide +kernel), extraction_eq _ _ (by decide +kernel), by decide +kernel, rfl⟩⟩

theorem witness_PollWithoutFrameEndsQuietly :
    ∃ t, TickNext (small 63) [] ∧ (small 63).faulted = false ∧
      tryExtract { small 63 with agenda := [] } = (.noFrame .noneEmpty, t) :=
  ⟨_, rfl, rfl, extraction_eq _ _ (by decide +kernel)⟩

theorem witness_UnrecognisedIdentifierHasNoEffect :
    ∃ t, (TickNext (framed [0x15, 0x05]) [] ∧ (framed [0x15, 0x05]).faulted = false) ∧
      tryExtract (ticked [0x15, 0x05]) = (.ready 2, t) ∧ decode (wbBytes t) = .error (.unrecognised 0x0515) :=
  ⟨_, framed_tick _ (by decide +kernel), extraction_eq _ _ (by decide +kernel), by decide +kernel⟩

/-- A machine in which a Fault was raised. -/
def faultedState : State := raiseFault .wbOverread (small 0)

/-- A byte comes next to a faulted machine. -/
def faultedByte : State := { faultedState with agenda := [.byte 1] }

/-- Both clauses: a tick and a byte; and an event that is no power-on. -/
theorem witness_FaultedMachineIgnoresTicks :
    (faultedState.faulted = true ∧ faultedState.agenda = .tick :: []) ∧
    (faultedByte.faulted = true ∧ ∃ b, faultedByte.agenda = .byte b :: []) ∧
    ∃ t, step faultedByte = .next t ∧ ∀ rest, faultedByte.agenda ≠ .powerOn :: rest :=
  ⟨⟨rfl, rfl⟩, ⟨rfl, 1, rfl⟩, _, rfl, fun rest h => by cases h⟩

/-- A run with a tick after new port values has not ended, and steps. -/
theorem witness_FiniteRunTakesEventsInOrder :
    ¬RunHasEnded { small 0 with agenda := [.ports Ports.idle, .tick] } ∧
    ∃ t, step { small 0 with agenda := [.ports Ports.idle, .tick] } = .next t :=
  ⟨fun h => h.elim (fun h => by cases h) (fun h => (h .tick (by simp)).1 rfl), _, rfl⟩

/-- Each way a run ends: `Faulted = 1` with a byte left, and no tick and no byte left; and a state with no event. -/
theorem witness_EndedRunIsFinal :
    (RunHasEnded faultedByte ∧ .powerOn ∉ faultedByte.agenda) ∧
    (RunHasEnded { small 0 with agenda := [.ports Ports.idle] } ∧
      .powerOn ∉ ({ small 0 with agenda := [.ports Ports.idle] } : State).agenda) ∧
    ({ small 0 with agenda := [] } : State).agenda = [] :=
  ⟨⟨.inl rfl, by decide⟩, ⟨.inr (by decide), by decide⟩, rfl⟩

theorem witness_RebootFrameResetsMachine :
    ∃ t, (TickNext (framed [0xDD, 0x05, 0, 0]) [] ∧ (framed [0xDD, 0x05, 0, 0]).faulted = false) ∧
      tryExtract (ticked [0xDD, 0x05, 0, 0]) = (.ready 4, t) ∧ decode (wbBytes t) = .ok (.rebootBl 0) :=
  ⟨_, framed_tick _ (by decide +kernel), extraction_eq _ _ (by decide +kernel), by decide +kernel⟩

theorem witness_PowerOnResetsMachine :
    ({ small 5 with agenda := [.powerOn] } : State).agenda = .powerOn :: [] := rfl

/-- The small machine, and one whose working buffer is as short as the field reads allow. -/
theorem witness_SessionStartSeedsAndReplies :
    8 ≤ (small 0).cfg.wbCap ∧
    (small 0).cfg.challengePolicy ≠ .onEachVersionReply ∧
    ({ smallCfg with wbCap := 8, challengePolicy := .onEachVersionReply } : Params).challengePolicy =
      .onEachVersionReply := by
  decide +kernel

theorem witness_FactoryResetSignalsSeedsAndReplies :
    8 ≤ (small 0).cfg.wbCap ∧ 8 ≤ ({ smallCfg with wbCap := 8 } : Params).wbCap := by
  decide +kernel

/-- The small machine with CK as custom key. -/
def keyed (fac : BitVec 2) : State := { small 0 with customKeyPresent := true, customKey := ck, fac := fac }

/-- Each column of the table, and the row of the lockout: the two conditions of the statement, for the responses RC,
Q0 and zeros. -/
theorem witness_AuthenticateFollowsItsTable :
    ((keyed 2).fac ≠ 3 ∧ (keyed 2).customKeyPresent = true ∧
      aesEnc (keyed 2).cfg (keyed 2).customKey (keyed 2).challenge = rc) ∧
    (aesEnc (keyed 2).cfg (keyed 2).customKey (keyed 2).challenge ≠ q0 ∧
      aesEnc (keyed 2).cfg (keyed 2).cfg.defaultKey (keyed 2).challenge = q0) ∧
    (aesEnc (keyed 2).cfg (keyed 2).customKey (keyed 2).challenge ≠ zeros ∧
      aesEnc (keyed 2).cfg (keyed 2).cfg.defaultKey (keyed 2).challenge ≠ zeros) ∧
    (keyed 3).fac = 3 := by
  decide +kernel

theorem witness_LockoutLastsUntilReset :
    ∃ t, ({ small 0 with fac := 3, locked := true } : State).fac = 3 ∧
      ({ small 0 with fac := 3, locked := true } : State).locked = true ∧
      step { small 0 with fac := 3, locked := true } = .next t := ⟨_, rfl, rfl, rfl⟩

/-- The working buffer at the boundary, and each challenge policy. -/
theorem witness_AuthResponseReportsLock :
    20 ≤ (small 0).cfg.wbCap ∧ 20 ≤ ({ smallCfg with wbCap := 20 } : Params).wbCap ∧
    (small 0).cfg.challengePolicy = .afterEachResponse ∧
    ({ smallCfg with challengePolicy := .onResetOnly } : Params).challengePolicy ≠ .afterEachResponse := by
  decide +kernel

theorem witness_StaleCommandChangesNothing :
    12 ≤ (small 0).cfg.wbCap ∧ (1 : Word) ≠ (small 0).timestamp ∧ (0x051B : Half) ∈ (small 0).cfg.tsChecked ∧
    (0x051D : Half) ∈ (small 0).cfg.tsChecked := by
  decide +kernel

/-- The small machine with this working-buffer size and no identifier under the timestamp check. -/
def unchecked (wbCap : Nat) : State := { small 0 with cfg := { smallCfg with wbCap := wbCap, tsChecked := [] } }

/-- A locked device under `GATE_MODE = LOCKED_AND_CUSTOM_KEY`, with or without a custom key. -/
def keyGated (present : Bool) : State :=
  { small 0 with cfg := { smallCfg with gateMode := .lockedAndCustomKey }, locked := true, customKeyPresent := present }

/-- A locked device and the longest read: with the session's Timestamp where it is checked, with another in a working
buffer as short as the fields allow where it is not; and a locked device with a custom key, under the gate that needs
one. -/
theorem witness_DeniedReadRepliesZeroData :
    (ReadFieldsFit (small 0).cfg ∧ TimestampAccepted { small 0 with locked := true } 0x051B 0 ∧
      (16 : Byte).toNat ≤ (small 0).cfg.maxReadLen ∧ ReadIsDenied { small 0 with locked := true } 0x10 16) ∧
    (ReadFieldsFit (unchecked 7).cfg ∧ TimestampAccepted { unchecked 7 with locked := true } 0x051B 99 ∧
      ReadIsDenied { unchecked 7 with locked := true } 0x10 16) ∧
    (TimestampAccepted (keyGated true) 0x051B 0 ∧ ReadIsDenied (keyGated true) 0x10 16) := by
  unfold ReadFieldsFit TimestampAccepted ReadIsDenied GateCloses
  decide +kernel

/-- An unlocked device with the image model, at the last storage offset; a Timestamp that is not checked; and a
locked device without the custom key its gate needs. -/
theorem witness_PermittedReadRepliesStorage :
    (ReadFieldsFit (small 0).cfg ∧ TimestampAccepted (small 0) 0x051B 0 ∧
      (16 : Byte).toNat ≤ (small 0).cfg.maxReadLen ∧ ¬ReadIsDenied (small 0) 0xFFF0 16 ∧
      (small 0).cfg.storageModel = .image ∧ (0xFFF0 : Half).toNat + 15 < 0x10000) ∧
    (ReadFieldsFit (unchecked 7).cfg ∧ TimestampAccepted (unchecked 7) 0x051B 99 ∧
      ¬ReadIsDenied (unchecked 7) 0xFFF0 16) ∧
    (TimestampAccepted (keyGated false) 0x051B 0 ∧ ¬ReadIsDenied (keyGated false) 0xFFF0 16) := by
  unfold ReadFieldsFit TimestampAccepted ReadIsDenied GateCloses
  decide +kernel

theorem witness_DeniedWriteIsAcknowledged :
    12 + 8 * ((48 : Byte).toNat / 8) ≤ (small 0).cfg.wbCap ∧
    (TimestampAccepted { small 0 with locked := true } 0x051D 0 ∧
      WriteIsDenied { small 0 with locked := true } 0 48) ∧
    (TimestampAccepted { unchecked 60 with locked := true } 0x051D 99 ∧
      WriteIsDenied { unchecked 60 with locked := true } 0 48) ∧
    (TimestampAccepted (keyGated true) 0x051D 0 ∧ WriteIsDenied (keyGated true) 0 48) := by
  unfold TimestampAccepted WriteIsDenied GateCloses
  decide +kernel

/-- Two chunks from 0xFFFC: the first ends at the last storage byte, the second stores from offset 4; a byte before
each, and one past the space; the oracle model; a Timestamp that is not checked; and a locked device
without the custom key its gate needs. -/
theorem witness_PermittedWriteStoresItsChunks :
    (12 + 8 * ((16 : Byte).toNat / 8) ≤ (small 0).cfg.wbCap ∧ TimestampAccepted (small 0) 0x051D 0 ∧
      (List.replicate 16 (7 : Byte)).length = 8 * ((16 : Byte).toNat / 8) ∧ ¬WriteIsDenied (small 0) 0xFFFC 16 ∧
      (small 0).cfg.storageModel = .image) ∧
    (ChunkStores (small 0) 0xFFFC 0 0 0xFFFC ∧ ChunkStores (small 0) 0xFFFC 0 0 0xFFFF ∧
      ChunkStores (small 0) 0xFFFC 0 1 4 ∧ ChunkStores (small 0) 0xFFFC 0 1 11) ∧
    (∀ i, i < 2 → ¬ChunkStores (small 0) 0xFFFC 0 i 12 ∧ ¬ChunkStores (small 0) 0xFFFC 0 i 0xFFFB) ∧
    ({ smallCfg with storageModel := .oracle } : Params).storageModel = .oracle ∧
    (TimestampAccepted (unchecked 28) 0x051D 99 ∧ ¬WriteIsDenied (unchecked 28) 0xFFFC 16) ∧
    (TimestampAccepted (keyGated false) 0x051D 0 ∧ ¬WriteIsDenied (keyGated false) 0xFFFC 16) := by
  unfold ChunkStores TimestampAccepted WriteIsDenied GateCloses
  refine ⟨?_, ?_, ?_, ?_, ?_, ?_⟩ <;> decide +kernel

/-- Both clauses: an unlocked write at the last offset of the calibration window, one past it, and a locked device
whose gate is open to writes; and a Timestamp that is not checked. -/
theorem witness_CalibrationWriteReinitialisesOnce :
    (12 + 8 * ((8 : Byte).toNat / 8) ≤ (small 0).cfg.wbCap ∧ TimestampAccepted (small 0) 0x051D 0) ∧
    (¬WriteIsDenied (small 0) 0x0F3F 8 ∧ (small 0).locked = false ∧
      StartsInCalibration (small 0) (chunkOffset 0x0F3F 0)) ∧
    (¬WriteIsDenied (small 0) 0x0F40 8 ∧ ¬StartsInCalibration (small 0) (chunkOffset 0x0F40 0)) ∧
    (¬WriteIsDenied (keyGated false) 0x0F30 8) ∧
    (∃ t, exec (.memWrite 0 0x0F3F 8 0 0 (List.replicate 8 7)) (small 0) = .next t) ∧
    (TimestampAccepted (unchecked 20) 0x051D 99 ∧
      ∃ t, exec (.memWrite 0 0x0F30 8 0 99 (List.replicate 8 7)) (unchecked 20) = .next t) :=
  ⟨⟨by decide +kernel, by unfold TimestampAccepted; decide +kernel⟩,
    by unfold WriteIsDenied GateCloses; decide +kernel, by unfold WriteIsDenied GateCloses; decide +kernel,
    by unfold WriteIsDenied GateCloses; decide +kernel, ⟨_, rfl⟩, by unfold TimestampAccepted; decide +kernel, _, rfl⟩

/-- The small machine while the lock screen shows. -/
def lockScreened : State := { small 0 with ports := { Ports.idle with lockScreen := true } }

/-- Both halves: a write while the lock screen shows; and a permitted write whose chunk is skipped (at the last offset
of the window), and four that are not, for one reason each: the offset before the window and the one after it, no lock
screen, the allow-password flag. -/
theorem witness_PasswordWindowIsWriteProtected :
    (lockScreened.ports.lockScreen = true ∧
      ∃ t, exec (.memWrite 0 0x0E98 8 0 0 (List.replicate 8 7)) lockScreened = .next t) ∧
    (12 + 8 * ((8 : Byte).toNat / 8) ≤ lockScreened.cfg.wbCap ∧ TimestampAccepted lockScreened 0x051D 0 ∧
      TimestampAccepted (small 0) 0x051D 0) ∧
    (¬WriteIsDenied lockScreened 0x0E9F 8 ∧ ¬WriteIsDenied lockScreened 0x0E97 8 ∧
      ¬WriteIsDenied lockScreened 0x0EA0 8 ∧ ¬WriteIsDenied (small 0) 0x0E98 8) ∧
    (PwProtected lockScreened 0 0x0E9F ∧ ¬PwProtected lockScreened 0 0x0E97 ∧ ¬PwProtected lockScreened 0 0x0EA0 ∧
      ¬PwProtected (small 0) 0 0x0E98 ∧ ¬PwProtected lockScreened 1 0x0E98) :=
  ⟨⟨rfl, _, rfl⟩, by unfold TimestampAccepted; decide +kernel,
    by unfold WriteIsDenied GateCloses; decide +kernel, by decide +kernel⟩

/-- Each clause at its bound: a read one byte too long; MEM_READ and MEM_WRITE in working buffers one byte short of
their fields; a write one chunk too long; and the session commands and AUTH_RESPONSE one byte short. -/
theorem witness_OverlongCommandRaisesFault :
    (ReadFieldsFit (small 0).cfg ∧ TimestampAccepted (small 0) 0x051B 0 ∧ (small 0).cfg.maxReadLen < (17 : Byte).toNat) ∧
    (unchecked 6).cfg.wbCap < 7 ∧
    ((0x051B : Half) ∈ ({ smallCfg with wbCap := 11 } : Params).tsChecked ∧
      ({ smallCfg with wbCap := 11 } : Params).wbCap < 12) ∧
    (TimestampAccepted (small 0) 0x051D 0 ∧ (small 0).cfg.wbCap < 12 + 8 * ((56 : Byte).toNat / 8)) ∧
    ({ smallCfg with wbCap := 7 } : Params).wbCap < 8 ∧ ({ smallCfg with wbCap := 19 } : Params).wbCap < 20 := by
  unfold ReadFieldsFit TimestampAccepted
  decide +kernel

/-- The last eight bytes of storage. -/
theorem witness_ImageReadReturnsLastWrite :
    (small 0).cfg.storageModel = .image ∧ (List.replicate 8 (7 : Byte)).length = 8 ∧
    (0xFFF8 : Half).toNat + 8 ≤ 0x10000 := by
  decide +kernel

theorem witness_LockedDeviceIsIsolatedFromStorage :
    DefaultGate ({ small 0 with locked := true } : State).cfg ∧ ({ small 0 with locked := true } : State).locked = true ∧
    (∃ t, step { small 0 with locked := true } = .next t) ∧
    ∀ rest, ({ small 0 with locked := true } : State).agenda ≠ .powerOn :: rest :=
  ⟨⟨rfl, rfl, rfl⟩, rfl, ⟨_, rfl⟩, fun rest h => by cases h⟩

/-- A command of each kind of write: a session command, AUTH_RESPONSE, MEM_WRITE, one of none; and a machine in which
a Fault was raised. -/
theorem witness_HandlersWriteOnlyTheirRegisters :
    (∃ t, exec (.sessionStart 4 1) (small 0) = .next t) ∧ (∃ t, exec (.authResponse 16 zeros) (small 0) = .next t) ∧
    (∃ t, exec (.memWrite 0 0 8 0 0 (List.replicate 8 7)) (small 0) = .next t) ∧
    (∃ t, exec (.nop051F 0) faultedState = .next t) ∧ faultedState.faulted = true :=
  ⟨⟨_, rfl⟩, ⟨_, rfl⟩, ⟨_, rfl⟩, ⟨_, rfl⟩, rfl⟩

theorem witness_CommandSendsAtMostOneReply : ∃ t, exec (.battStatus 0) (small 0) = .next t := ⟨_, rfl⟩

theorem witness_LogsOnlyGrowAndParametersStay :
    (∃ t, step (small 0) = .next t) ∧ ∀ rest, (small 0).agenda ≠ .powerOn :: rest :=
  ⟨⟨_, rfl⟩, fun rest h => by cases h⟩

/-- The small machine meets the invariant, and steps. -/
theorem witness_StepKeepsInvariant : (small 63).Inv ∧ ∃ t, step (small 63) = .next t :=
  ⟨⟨smallCfg_valid, by decide, by decide, rfl, rfl, by decide +kernel, fun h => absurd (show (0 : BitVec 2) = 3 from h) (by decide),
    ⟨fun h => absurd (show false = true from h) (by decide), fun ⟨r, h⟩ => by cases (show none = some (PollOutcome.fault r) from h)⟩⟩,
    _, rfl⟩

end Sys2Proof.Tests
end

/-! PROOFS. The invariants of the state (spec 10_state.md): the machine's invariant over every step, the read cursor
within the pending span, and the logs and parameters over every step. -/

namespace Sys2Proof.Machine

/-! ### Where an extraction leaves the read cursor -/

/-- A scan that finds nothing has passed every pending byte. -/
theorem scan_empty_at (s : State) (n r r' : Nat) (hr : r < s.cfg.cap) (h : scan s n r = .empty r') :
    r' = (r + n) % s.cfg.cap := by
  rcases scan_cases s n r hr with h' | ⟨j, _, _, _, h'⟩ | ⟨j, _, _, _, _, h'⟩ <;> rw [h'] at h <;> cases h
  rfl

/-- A scan that stops at a 0xAB too near the end stands at a pending byte. -/
theorem scan_short_at (s : State) (n r r' : Nat) (hr : r < s.cfg.cap) (h : scan s n r = .short r') :
    ∃ j, j < n ∧ r' = (r + j) % s.cfg.cap := by
  rcases scan_cases s n r hr with h' | ⟨j, hj, _, _, h'⟩ | ⟨j, _, _, _, _, h'⟩ <;> rw [h'] at h <;> cases h
  exact ⟨j, hj, rfl⟩

/-- A frame that lies whole behind a start marker ends at a pending byte or at the write cursor. -/
theorem consumed_rd (s : State) (hr : s.rd < s.cfg.cap) (r n size : Nat)
    (h : scan s (pend s.cfg.cap s.rd s.wr) s.rd = .header r n) (hn : size + 8 ≤ n) :
    ∃ j, j ≤ pend s.cfg.cap s.rd s.wr ∧ (consumed s r size).rd = (s.rd + j) % s.cfg.cap := by
  obtain ⟨j, hj, rfl, rfl, -⟩ := scan_header_at s hr r n h
  refine ⟨j + (size + 8), by omega, ?_⟩
  show ((s.rd + j) % s.cfg.cap + size + 8) % s.cfg.cap = _
  rw [Nat.add_assoc, Nat.mod_add_mod, Nat.add_assoc]

/-- An extraction moves the read cursor over some number of the pending bytes (41_ring_extractor.md R121). -/
theorem ExtractionCase.rd_advances {s t : State} {e : Extraction} (h : ExtractionCase s e t) (hr : s.rd < s.cfg.cap)
    (hw : s.wr < s.cfg.cap) : ∃ j, j ≤ pend s.cfg.cap s.rd s.wr ∧ t.rd = (s.rd + j) % s.cfg.cap := by
  have discard : ∃ j, j ≤ pend s.cfg.cap s.rd s.wr ∧ s.wr = (s.rd + j) % s.cfg.cap :=
    ⟨_, le_rfl, (add_pend_mod _ _ _ hr hw).symm⟩
  cases h with
  | empty r h => exact ⟨_, le_rfl, scan_empty_at s _ _ r hr h⟩
  | short r h =>
    obtain ⟨j, hj, hrd⟩ := scan_short_at s _ _ r hr h
    exact ⟨j, hj.le, hrd⟩
  | incomplete r n h =>
    obtain ⟨j, hj, -, hrd, -⟩ := scan_header_at s hr r n h
    exact ⟨j, hj.le, hrd⟩
  | oversize | badEnd => exact discard
  | crc r n h _ hn => exact consumed_rd s hr r n _ h hn
  | ready r n h _ hn => exact consumed_rd s hr r n _ h hn

/-- An extraction writes `rd`, `RB`, `WB` and `IsEncrypted` only. -/
theorem ExtractionCase.frame {s t : State} {e : Extraction} (h : ExtractionCase s e t) :
    t = { s with rd := t.rd, rb := t.rb, wb := t.wb, isEncrypted := t.isEncrypted } := by
  cases h <;> rfl

/-- An extraction without a frame ends the poll with an outcome that is no Fault. -/
theorem ExtractionCase.outcome_ne_fault {s t : State} {o : PollOutcome} (h : ExtractionCase s (.noFrame o) t)
    (r : Fault) : o ≠ .fault r := by
  cases h <;> exact PollOutcome.noConfusion

/-- Settles O13: the cursor's advance, and the count of what is then pending. -/
theorem cursorStaysInPendingSpan : Obligations.CursorStaysInPendingSpan := by
  intro s t e ⟨_, hr, hw⟩ hx
  have hcase := ExtractionCase.of_eq hx
  obtain ⟨j, hj, hrd⟩ := hcase.rd_advances hr hw
  have hwr : t.wr = s.wr := by rw [hcase.frame]
  refine ⟨j, hj, hrd, hwr, ?_⟩
  rw [hrd, hwr, pend_advance _ _ _ _ hr hw hj]

/-! ### The updates of a poll keep the invariant

An update that writes none of the fields the invariant reads keeps each of its clauses as it stands. -/

theorem inv_agenda {s : State} (rest : List EnvEvent) (h : s.Inv) : ({ s with agenda := rest } : State).Inv :=
  { h with }

theorem inv_ports {s : State} (p : Ports) (h : s.Inv) : ({ s with ports := p } : State).Inv := { h with }

theorem inv_signal {s : State} (e : OutEvent) (h : s.Inv) : (signal e s).Inv := { h with }

theorem inv_setTimestamp {s : State} (v : Word) (h : s.Inv) : (setTimestamp v s).Inv := { h with }

theorem inv_sendReply {s : State} (p : List Byte) (h : s.Inv) : (sendReply p s).Inv := { h with }

theorem inv_memReadEffect {s : State} (off : Half) (n : Nat) (h : s.Inv) : (memReadEffect off n s).Inv := { h with }

theorem inv_sendVersion {s : State} (h : s.Inv) : (sendVersion s).Inv := by
  rw [sendVersion_eq]
  exact { h with }

/-- An outcome that is no Fault is recorded only while `Faulted` is 0. -/
theorem inv_finish {s : State} {o : PollOutcome} (ho : ∀ r, o ≠ .fault r) (hf : s.faulted = false) (h : s.Inv) :
    (finish o s).Inv :=
  { h with
    fault_mark := by
      simp only [finish_faulted, hf, finish_lastOutcome, Option.some.injEq, Bool.false_eq_true, false_iff]
      exact fun ⟨r, hr⟩ => ho r hr }

/-- A Fault sets `Faulted` and records itself (60_exceptions.md R236). -/
theorem inv_raiseFault {s : State} (r : Fault) (h : s.Inv) : (raiseFault r s).Inv :=
  { h with fault_mark := ⟨fun _ => ⟨r, rfl⟩, fun _ => rfl⟩ }

/-- "Lockout overrides every path" (43_authenticator.md R163): a counter of 3 comes with the lock. -/
theorem authResult_lockout (s : State) (r : Block) (h : (authResult s r).2 = 3) : (authResult s r).1 = true := by
  unfold authResult at h ⊢
  split
  · rfl
  · rename_i hlt
    rw [if_neg hlt] at h
    exact absurd (by rw [h]; decide) hlt

/-- What AUTH_RESPONSE does after its reach check keeps the invariant. -/
theorem inv_authResponse {s : State} (r : Block) (h : s.Inv) :
    (refreshAfterResponse (sendLockStatus (authenticate r s))).Inv := by
  obtain ⟨c, d, heq⟩ := authResponse_frame r s
  rw [heq]
  exact { h with lockout := authResult_lockout s r }

theorem inv_permittedWrite {s : State} (off : Half) (allow : Bool) (data : List Byte) (m : Nat) (h : s.Inv) :
    (permittedWrite off allow data m s).Inv := by
  rw [permittedWrite_eq]
  exact { h with store_wf := wf_writeChunks off allow data m s h.store_wf }

/-- `Reset()` empties the ring and the working buffer and sets `FAC` to 0. -/
theorem inv_resetRegisters {s : State} (h : s.Inv) : (resetRegisters s).Inv :=
  have hcap : 0 < s.cfg.cap := Nat.zero_lt_of_lt h.rd_lt
  { h with
    rd_lt := hcap
    wr_lt := hcap
    rb_wf := rfl
    wb_wf := rfl
    lockout := fun hfac => absurd (show (0 : BitVec 2) = 3 from hfac) (by decide) }

/-- Power-on clears `Faulted` and the recorded outcome together (log 11). -/
theorem inv_powerOn {s : State} (h : s.Inv) : (powerOn s).Inv :=
  { inv_resetRegisters h with
    fault_mark := ⟨nofun, fun ⟨_, hr⟩ => nomatch hr⟩ }

/-- The DMA producer writes inside the ring, and its cursor wraps (20_memory.md R72). -/
theorem inv_dmaStep {s : State} (b : Byte) (h : s.Inv) : (dmaStep b s).Inv :=
  { h with
    wr_lt := Nat.mod_lt _ (Nat.zero_lt_of_lt h.wr_lt)
    rb_wf := Memory.wf_write _ _ _ _ _ h.wr_lt h.rb_wf }

/-! ### Extractions, commands and steps keep the invariant -/

/-- A frame the ring can hold has a body the working buffer can hold: `WB_CAP >= CAP - 6` (00_scope.md R8). -/
theorem inv_consumed {s : State} (r size : Nat) (hs : size + 8 ≤ s.cfg.cap) (h : s.Inv) : (consumed s r size).Inv :=
  have hcap : 0 < s.cfg.cap := Nat.zero_lt_of_lt h.rd_lt
  have hbody : 0 + (frameBody s r size).length ≤ s.cfg.wbCap := by
    have := h.params.wbCap_ge
    rw [length_frameBody]
    omega
  { h with
    rd_lt := Nat.mod_lt _ hcap
    rb_wf := wf_ringWriteSeq _ hcap _ _ _ h.rb_wf
    wb_wf := Memory.wf_writeSeq _ _ _ _ _ hbody h.wb_wf }

theorem ExtractionCase.inv {s t : State} {e : Extraction} (hx : ExtractionCase s e t) (h : s.Inv) : t.Inv := by
  have hrd : t.rd < s.cfg.cap := by
    obtain ⟨j, -, hj⟩ := hx.rd_advances h.rd_lt h.wr_lt
    exact hj ▸ Nat.mod_lt _ (Nat.zero_lt_of_lt h.rd_lt)
  cases hx with
  | empty | short | oversize | incomplete | badEnd => exact { h with rd_lt := hrd }
  | crc r n _ hs => exact inv_consumed r _ hs h
  | ready r n _ hs => exact inv_consumed r _ hs h

/-- Every command keeps the invariant of a machine that has not faulted. -/
theorem ExecCase.inv {s t : State} {i : Instr} (hx : ExecCase s i t) (hf : s.faulted = false) (h : s.Inv) :
    t.Inv := by
  cases hx with
  | fault _ r => exact inv_raiseFault r h
  | staleRead | staleWrite | nopA | nopB => exact inv_finish nofun hf h
  | deniedRead | deniedWrite | rf | batt => exact inv_finish nofun hf (inv_sendReply _ h)
  | session l ts =>
    refine inv_finish nofun ?_ (inv_sendVersion (inv_setTimestamp ts h))
    rw [sendVersion_eq]
    exact hf
  | read l off n pad ts => exact inv_finish nofun hf (inv_sendReply _ (inv_memReadEffect off n.toNat h))
  | write l off n allow ts data =>
    refine inv_finish nofun ?_ (inv_sendReply _ (inv_permittedWrite _ _ _ _ h))
    rw [permittedWrite_eq]
    exact hf
  | auth l r =>
    refine inv_finish (by split <;> nofun) ?_ (inv_authResponse r h)
    rw [refreshAfterResponse_eq]
    exact hf
  | factory l ts =>
    refine inv_finish nofun ?_ (inv_sendVersion (inv_setTimestamp ts (inv_signal _ (inv_signal _ h))))
    rw [sendVersion_eq]
    exact hf
  | reboot => exact inv_finish nofun hf (inv_signal _ h)

/-- Settles O50: over the next states of a step, by the updates each is made of. -/
theorem stepKeepsInvariant : Obligations.StepKeepsInvariant := by
  intro s t h hstep
  have extracted : ∀ {rest e u}, s.faulted = false → tryExtract { s with agenda := rest } = (e, u) →
      u.faulted = false ∧ u.Inv := fun {rest e u} hf hx => by
    have hcase := ExtractionCase.of_eq hx
    exact ⟨by rw [hcase.frame]; exact hf, hcase.inv (inv_agenda rest h)⟩
  cases step_cases hstep with
  | idle => exact h
  | ignored _ rest => exact inv_agenda rest h
  | noFrame rest o u hf _ hx =>
    obtain ⟨huf, hu⟩ := extracted hf hx
    exact inv_finish (ExtractionCase.of_eq hx).outcome_ne_fault huf hu
  | noCommand rest n u err hf _ hx =>
    obtain ⟨huf, hu⟩ := extracted hf hx
    split
    · exact inv_raiseFault _ hu
    · exact inv_finish nofun huf hu
  | command rest n u i v hf _ hx _ he =>
    obtain ⟨huf, hu⟩ := extracted hf hx
    have hv : v.Inv := (exec_cases he).inv huf hu
    split
    · exact inv_resetRegisters hv
    · exact hv
  | byte b rest => exact inv_dmaStep b (inv_agenda rest h)
  | ports p rest => exact inv_ports p (inv_agenda rest h)
  | powerOn rest => exact inv_powerOn (inv_agenda rest h)

/-! ### The logs and the parameters -/

/-- `t` has the parameters of `s`, and `TX` and `EV` of `s` with something appended. -/
structure LogsExtend (s t : State) : Prop where
  /-- The parameters, `DefaultKey` among them (10_state.md R32). -/
  cfg : t.cfg = s.cfg
  /-- `TX` is append-only (10_state.md R40). -/
  tx : s.tx <+: t.tx
  /-- `EV` is append-only (10_state.md R41). -/
  ev : s.ev <+: t.ev

/-- A state with the same parameters and logs. -/
theorem LogsExtend.of_eq {s t : State} (hc : t.cfg = s.cfg) (ht : t.tx = s.tx) (he : t.ev = s.ev) : LogsExtend s t :=
  ⟨hc, ht ▸ List.prefix_rfl, he ▸ List.prefix_rfl⟩

theorem LogsExtend.trans {s t u : State} (h : LogsExtend s t) (h' : LogsExtend t u) : LogsExtend s u :=
  ⟨h'.cfg.trans h.cfg, h.tx.trans h'.tx, h.ev.trans h'.ev⟩

/-- Recording the outcome of a poll touches neither the parameters nor the logs. -/
theorem LogsExtend.to_finish {s t : State} (h : LogsExtend s t) (o : PollOutcome) : LogsExtend s (finish o t) :=
  h.trans (.of_eq rfl rfl rfl)

theorem logsExtend_signal (e : OutEvent) (s : State) : LogsExtend s (signal e s) :=
  ⟨rfl, List.prefix_rfl, List.prefix_append _ _⟩

theorem logsExtend_sendReply (p : List Byte) (s : State) : LogsExtend s (sendReply p s) :=
  ⟨rfl, List.prefix_append _ _, List.prefix_rfl⟩

theorem logsExtend_memReadEffect (off : Half) (n : Nat) (s : State) : LogsExtend s (memReadEffect off n s) :=
  ⟨rfl, List.prefix_rfl, List.prefix_append _ _⟩

theorem logsExtend_setTimestamp (v : Word) (s : State) : LogsExtend s (setTimestamp v s) := .of_eq rfl rfl rfl

theorem logsExtend_sendVersion (s : State) : LogsExtend s (sendVersion s) := by
  rw [sendVersion_eq]
  exact ⟨rfl, List.prefix_append _ _, List.prefix_rfl⟩

theorem logsExtend_authResponse (r : Block) (s : State) :
    LogsExtend s (refreshAfterResponse (sendLockStatus (authenticate r s))) := by
  obtain ⟨c, d, heq⟩ := authResponse_frame r s
  rw [heq]
  exact ⟨rfl, List.prefix_append _ _, List.prefix_rfl⟩

/-- A permitted write appends its STORE_WR events, and STORE_REINIT where it reinitialises storage. -/
theorem logsExtend_permittedWrite (off : Half) (allow : Bool) (data : List Byte) (m : Nat) (s : State) :
    LogsExtend s (permittedWrite off allow data m s) := by
  have chunks : s.ev <+: (writeChunks off allow data m s).ev := by
    rw [writeChunks_ev]
    exact List.prefix_append _ _
  obtain ⟨hre, hno⟩ := permittedWrite_reinit off allow data m s
  have hev : s.ev <+: (permittedWrite off allow data m s).ev := by
    cases hr : needsReinit off m s with
    | true => exact (hre hr).1 ▸ chunks.trans (List.prefix_append _ _)
    | false => exact (hno hr).1 ▸ chunks
  exact ⟨by rw [permittedWrite_eq], by rw [permittedWrite_eq], hev⟩

/-- An extraction touches neither the parameters nor the logs. -/
theorem ExtractionCase.logsExtend {s t : State} {e : Extraction} (h : ExtractionCase s e t) : LogsExtend s t :=
  .of_eq (by rw [h.frame]) (by rw [h.frame]) (by rw [h.frame])

/-- Every command keeps the parameters and appends to the logs. -/
theorem ExecCase.logsExtend {s t : State} {i : Instr} (h : ExecCase s i t) : LogsExtend s t := by
  cases h with
  | fault | staleRead | staleWrite | nopA | nopB => exact .of_eq rfl rfl rfl
  | deniedRead | deniedWrite | rf | batt => exact (logsExtend_sendReply _ s).to_finish _
  | session l ts => exact ((logsExtend_setTimestamp ts s).trans (logsExtend_sendVersion _)).to_finish _
  | read l off n pad ts =>
    exact ((logsExtend_memReadEffect off n.toNat s).trans (logsExtend_sendReply _ _)).to_finish _
  | write l off n allow ts data =>
    exact ((logsExtend_permittedWrite _ _ _ _ s).trans (logsExtend_sendReply _ _)).to_finish _
  | auth l r => exact (logsExtend_authResponse r s).to_finish _
  | factory l ts =>
    have signals := (logsExtend_signal .factoryDefaults s).trans (logsExtend_signal .pwrsaveExit _)
    exact ((signals.trans (logsExtend_setTimestamp ts _)).trans (logsExtend_sendVersion _)).to_finish _
  | reboot => exact (logsExtend_signal .reboot s).to_finish _

/-- A step is a power-on, or it keeps the parameters and appends to the logs. -/
theorem StepCase.powerOn_or_logsExtend {s t : State} (h : StepCase s t) :
    (∃ rest, s.agenda = .powerOn :: rest ∧ t = Machine.powerOn { s with agenda := rest }) ∨ LogsExtend s t := by
  have extracted : ∀ {rest e u}, tryExtract { s with agenda := rest } = (e, u) → LogsExtend s u := fun {rest _ _} hx =>
    LogsExtend.trans (t := { s with agenda := rest }) (.of_eq rfl rfl rfl) (ExtractionCase.of_eq hx).logsExtend
  cases h with
  | idle | ignored | byte | ports => exact .inr (.of_eq rfl rfl rfl)
  | noFrame rest o u _ _ hx => exact .inr ((extracted hx).to_finish o)
  | noCommand rest n u err _ _ hx =>
    right
    split
    · exact (extracted hx).trans (.of_eq rfl rfl rfl)
    · exact (extracted hx).to_finish _
  | command rest n u i v _ _ hx _ he =>
    have hv : LogsExtend s v := (extracted hx).trans (exec_cases he).logsExtend
    right
    split
    · exact hv.trans (.of_eq rfl rfl rfl)
    · exact hv
  | powerOn rest ha => exact .inl ⟨rest, ha, rfl⟩

/-- Settles O49: a power-on empties the logs, but keeps the parameters as every other step does. -/
theorem logsOnlyGrowAndParametersStay : Obligations.LogsOnlyGrowAndParametersStay := by
  intro s t hstep
  rcases (step_cases hstep).powerOn_or_logsExtend with ⟨rest, ha, rfl⟩ | h
  · exact ⟨rfl, fun hp => absurd ha (hp rest)⟩
  · exact ⟨h.cfg, fun _ => ⟨h.tx, h.ev⟩⟩

end Sys2Proof.Machine

/-! PROOFS. The memories and their agents (spec 20_memory.md): the storage image, the DMA producer, and a command frame
from the producer through the ring to the working buffer. -/

namespace Sys2Proof.Machine

/-! ### Storage under IMAGE -/

/-- `MemRead` under `IMAGE` answers, inside the space, the stored byte (20_memory.md R66). -/
theorem byteAt_memReadData_image {s : State} (him : s.cfg.storageModel = .image) (off : Half) {n k : Nat} (hk : k < n)
    (hs : off.toNat + k < storeSize) : byteAt (memReadData off n s) k = storeByte s (off.toNat + k) := by
  unfold memReadData
  rw [him]
  exact (byteAt_map_range _ _ _ hk).trans (if_pos hs)

@[simp] theorem length_memReadData (off : Half) (n : Nat) (s : State) : (memReadData off n s).length = n := by
  unfold memReadData
  split
  · exact length_freeBytes _ _
  · simp

/-- A stored byte after `MemWrite` under `IMAGE` (20_memory.md R67). -/
theorem storeByte_memWriteEffect_image {s : State} (him : s.cfg.storageModel = .image) (off : Half)
    (data : List Byte) (a : Nat) :
    storeByte (memWriteEffect off data s) a =
      if off.toNat ≤ a ∧ a < off.toNat + data.length ∧ a < storeSize then byteAt data (a - off.toNat)
      else storeByte s a := by
  unfold storeByte
  rw [memWriteEffect_store, storeData_image off data s him, read_storeWriteSeq]
  split <;> rfl

/-- Settles O45: byte by byte, the read finds what the write stored there. -/
theorem imageReadReturnsLastWrite : Obligations.ImageReadReturnsLastWrite := by
  intro s off data him hlen hoff
  refine bytes_ext _ _ (by rw [length_memReadData, hlen]) fun k hk => ?_
  rw [length_memReadData] at hk
  have hspace : off.toNat + k < storeSize := by
    unfold storeSize
    omega
  rw [byteAt_memReadData_image (by rw [memWriteEffect_cfg, him]) off hk hspace,
    storeByte_memWriteEffect_image him, if_pos (by omega), Nat.add_sub_cancel_left]

/-! ### The DMA producer -/

/-- A ring byte after the DMA producer has taken one (20_memory.md R72). -/
theorem rbByte_dmaStep (b : Byte) (s : State) (a : Nat) :
    rbByte (dmaStep b s) a = if s.wr = a then b else rbByte s a := by
  unfold rbByte
  rw [dmaStep_rb, Memory.read_write]
  split <;> rfl

/-- A step on a byte is that byte's receipt in the state with the event taken. -/
theorem step_byte {s : State} {b : Byte} {rest : List EnvEvent} (h : s.agenda = .byte b :: rest) :
    step s = .next (receive b { s with agenda := rest }) := by
  unfold step advance
  rw [h]
  rfl

/-- Settles O18: the byte is a DMA step at `Faulted` 0 and is passed over at `Faulted` 1. -/
theorem dmaStepWritesOneByte : Obligations.DmaStepWritesOneByte := by
  intro s t b rest hagenda hstep
  rw [step_byte hagenda] at hstep
  obtain rfl : receive b { s with agenda := rest } = t := Host.Outcome.next.inj hstep
  constructor
  · intro hf
    rw [receive_running (s := { s with agenda := rest }) b hf]
    refine ⟨?_, fun a ha => ?_, rfl, fun a => rfl, fun a => rfl, rfl⟩
    · rw [rbByte_dmaStep, if_pos rfl]
    · rw [rbByte_dmaStep, if_neg ha.symm]
      rfl
  · exact fun hf => receive_faulted (s := { s with agenda := rest }) b hf

/-- A run of bytes writes the ring and the write cursor only. -/
theorem deliver_frame (bs : List Byte) (s : State) :
    deliver bs s = { s with rb := (deliver bs s).rb, wr := (deliver bs s).wr } := by
  induction bs generalizing s with
  | nil => rfl
  | cons b bs ih => exact ih (dmaStep b s)

@[simp] theorem deliver_cfg (bs : List Byte) (s : State) : (deliver bs s).cfg = s.cfg := by
  rw [deliver_frame]

@[simp] theorem deliver_rd (bs : List Byte) (s : State) : (deliver bs s).rd = s.rd := by
  rw [deliver_frame]

@[simp] theorem deliver_isEncrypted (bs : List Byte) (s : State) : (deliver bs s).isEncrypted = s.isEncrypted := by
  rw [deliver_frame]

/-- What the DMA producer takes, up to a ring full of it, the ring holds from where its write cursor stood. -/
theorem ringHolds_deliver (bs : List Byte) (s : State) (hw : s.wr < s.cfg.cap) (hlen : bs.length ≤ s.cfg.cap) :
    RingHolds (deliver bs s) s.wr bs := by
  intro k hk
  rw [deliver_eq bs s hw]
  unfold ringByte rbByte ring
  rw [read_ringWriteSeq_inside _ _ _ _ _ hlen hk]
  rfl

/-- After fewer bytes than a ring full into an empty ring, just those bytes are pending. -/
theorem pend_deliver (bs : List Byte) (s : State) (hw : s.wr < s.cfg.cap) (hempty : s.rd = s.wr)
    (hlen : bs.length < s.cfg.cap) :
    pend (deliver bs s).cfg.cap (deliver bs s).rd (deliver bs s).wr = bs.length := by
  rw [deliver_eq bs s hw]
  dsimp only
  rw [hempty, pend_after _ _ _ hw hlen]

/-! ### The codec undone, and the CRC of a sent body -/

theorem obfuscateFrom_obfuscateFrom (p : Params) (k : Nat) (bs : List Byte) :
    obfuscateFrom p k (obfuscateFrom p k bs) = bs := by
  induction bs generalizing k with
  | nil => rfl
  | cons b bs ih => simp only [obfuscateFrom, ih, BitVec.xor_assoc, BitVec.xor_self, BitVec.xor_zero]

/-- A body sent and received in one mode is the body (40_codec.md R111). -/
@[simp] theorem codec_codec (p : Params) (m : Bool) (bs : List Byte) : codec p m (codec p m bs) = bs := by
  cases m
  · rfl
  · exact obfuscateFrom_obfuscateFrom p 0 bs

/-- A payload followed by its own CRC passes the check (42_crc.md R151 to R153). -/
theorem verifyCrc_append_crc (p : Params) (payload : List Byte) :
    verifyCrc p payload.length (payload ++ bytes16 (crc16 p payload)) = true := by
  have hfield : le16 (payload ++ bytes16 (crc16 p payload)) payload.length = crc16 p payload := by
    unfold le16
    rw [byteAt_append_right _ _ _ (Nat.le_add_right _ 1), byteAt_append_right _ _ _ le_rfl, Nat.add_sub_cancel_left,
      Nat.sub_self]
    exact append_extract16 _
  unfold verifyCrc
  rw [List.take_left, hfield]
  exact beq_self_eq_true _

/-! ### A frame that lies in the ring -/

/-- What the extractor reads of a frame that lies in the ring: its markers, its length and its body. -/
theorem RingHolds.frame_fields {s : State} {r : Nat} {n : Half} {raw f : List Byte}
    (hf : f = [0xAB, 0xCD] ++ bytes16 n ++ raw ++ [0xDC, 0xBA]) (h : RingHolds s r f) :
    ringByte s r 0 = 0xAB ∧ ringByte s r 1 = 0xCD ∧ ringLe16 s r 2 = n ∧ ringBytes s (r + 4) raw.length = raw ∧
      ringByte s r (raw.length + 4) = 0xDC ∧ ringByte s r (raw.length + 5) = 0xBA := by
  obtain ⟨hAB, hCD, hlo, hhi, hbody, hDC, hBA⟩ := byteAt_frame n raw f hf
  have hlen : f.length = raw.length + 6 := by
    simp [hf]
    omega
  have hbyte : ∀ k, k < raw.length + 6 → ringByte s r k = byteAt f k :=
    fun k hk => h k (hlen ▸ hk)
  refine ⟨?_, ?_, ?_, ?_, ?_, ?_⟩
  · rw [hbyte 0 (by omega), hAB]
  · rw [hbyte 1 (by omega), hCD]
  · unfold ringLe16
    rw [hbyte 2 (by omega), hbyte 3 (by omega), hlo, hhi, append_extract16]
  · refine bytes_ext _ _ (length_ringBytes _ _ _) fun k hk => ?_
    rw [length_ringBytes] at hk
    rw [byteAt_ringBytes _ _ _ _ hk, ringByte_add, hbyte _ (by omega), hbody k hk]
  · rw [hbyte _ (by omega), Nat.add_comm, hDC]
  · rw [hbyte _ (by omega), Nat.add_comm, hBA]

/-- With a header at `rd`, the scan stops there (41_ring_extractor.md R121 steps 1 and 2). -/
theorem tryExtract_header {s : State} (h : HeaderAtRd s) :
    tryExtract s = examine s s.wr s.rd (pend s.cfg.cap s.rd s.wr) := by
  obtain ⟨hAB, hCD, h8⟩ := h
  obtain ⟨n, hn⟩ : ∃ n, pend s.cfg.cap s.rd s.wr = n + 1 := ⟨_, (Nat.succ_pred (by omega)).symm⟩
  unfold tryExtract
  rw [hn, scan_header s n s.rd hAB (by omega) hCD]

/-- A body sent in mode `m`, whose raw identifier leaves the machine in `m`, is taken in that mode and read back
(40_codec.md R111, R112). -/
theorem frameBody_of_sent {s : State} {r size : Nat} {m : Bool} {body : List Byte}
    (hraw : ringBytes s (r + 4) (size + 2) = codec s.cfg m body)
    (hmode : modeAfter s.cfg.resumeId (le16 (codec s.cfg m body) 0) s.isEncrypted = m) :
    frameMode s r size = m ∧ frameBody s r size = body := by
  have hm : frameMode s r size = m := by
    unfold frameMode
    rw [hraw, hmode]
  refine ⟨hm, ?_⟩
  unfold frameBody
  rw [hm, hraw, codec_codec]

/-- A command frame that lies whole at `rd`, its body in the mode `m` its raw identifier leaves the machine in, is
consumed: the extraction is `READY`, with the mode `m` and the body in plaintext (41_ring_extractor.md R128, R132). -/
theorem tryExtract_commandFrame {s : State} {m : Bool} {payload : List Byte} (hs : CursorsInRange s)
    (hfit : payload.length + 9 ≤ s.cfg.cap)
    (hmode : modeAfter s.cfg.resumeId (le16 (codec s.cfg m (payload ++ bytes16 (crc16 s.cfg payload))) 0)
      s.isEncrypted = m)
    (hpend : payload.length + 8 ≤ pend s.cfg.cap s.rd s.wr)
    (hring : RingHolds s s.rd (commandFrame s.cfg m payload)) :
    tryExtract s = (.ready payload.length, consumed s s.rd payload.length) ∧
      frameMode s s.rd payload.length = m ∧
      frameBody s s.rd payload.length = payload ++ bytes16 (crc16 s.cfg payload) := by
  obtain ⟨hvalid, hrd, -⟩ := hs
  obtain ⟨hAB, hCD, hlength, hraw, hDC, hBA⟩ := RingHolds.frame_fields rfl hring
  have hrawlen : (codec s.cfg m (payload ++ bytes16 (crc16 s.cfg payload))).length = payload.length + 2 := by simp
  rw [hrawlen] at hraw hDC hBA
  obtain ⟨hm, hbody⟩ := frameBody_of_sent hraw hmode
  have hsize : payload.length = (ringLe16 s s.rd 2).toNat := by
    have := hvalid.cap_le
    rw [hlength, BitVec.toNat_ofNat, Nat.mod_eq_of_lt (by omega)]
  have hheader : HeaderAtRd s := by
    refine ⟨?_, hCD, by omega⟩
    rwa [ringByte, ring, Nat.add_zero, Nat.mod_eq_of_lt hrd] at hAB
  refine ⟨?_, hm, hbody⟩
  rw [tryExtract_header hheader, examine_whole s _ _ _ payload.length hsize (by omega) hpend hDC hBA, consume_eq, hbody,
    verifyCrc_append_crc, if_pos rfl]

/-- Settles O16: after the delivery the frame is what is pending, whole and at `rd`. -/
theorem deliveredFrameIsExtracted : Obligations.DeliveredFrameIsExtracted := by
  intro s m payload ⟨hvalid, hrd, hwr⟩ hempty hfit hmode
  have hcap : (commandFrame s.cfg m payload).length < s.cfg.cap := by
    rw [length_commandFrame]
    omega
  have hrange : CursorsInRange (deliver (commandFrame s.cfg m payload) s) := by
    refine ⟨by rwa [deliver_cfg], by rwa [deliver_rd, deliver_cfg], ?_⟩
    rw [deliver_eq _ s hwr]
    exact Nat.mod_lt _ (Nat.zero_lt_of_lt hwr)
  have hpend := pend_deliver (commandFrame s.cfg m payload) s hwr hempty hcap
  rw [length_commandFrame] at hpend
  have hring := ringHolds_deliver (commandFrame s.cfg m payload) s hwr hcap.le
  obtain ⟨hready, hm, hbody⟩ := tryExtract_commandFrame (m := m) (payload := payload) hrange (by rwa [deliver_cfg])
    (by rwa [deliver_cfg, deliver_isEncrypted]) hpend.ge (by rwa [deliver_cfg, deliver_rd, hempty])
  refine ⟨_, hready, hm, fun k hk => ?_⟩
  rw [wbByte_consumed, if_pos (by omega), hbody, byteAt_append_left _ _ _ hk]

end Sys2Proof.Machine

/-! PROOFS. The payload encoding (spec 30_encoding.md): the identifier map, the decoder and the encoder as inverses of
each other, and a frame whose identifier is in no row of the map. -/

namespace Sys2Proof

/-! ### The identifier map (30_encoding.md R99) -/

/-- No two rows of the map share an identifier. -/
@[simp] theorem selectOpcode_opcodeId (o : Opcode) : selectOpcode (opcodeId o) = some o := by cases o <;> rfl

theorem opcodeId_of_selectOpcode {id : Half} {o : Opcode} (h : selectOpcode id = some o) : opcodeId o = id := by
  simpa using List.find?_some h

theorem selectOpcode_eq_none {id : Half} (h : id ∉ opcodes.map opcodeId) : selectOpcode id = none :=
  List.find?_eq_none.2 fun o ho heq => h (List.mem_map.2 ⟨o, ho, by simpa using heq⟩)

/-! ### The decoder -/

@[simp] theorem opcodeOf_decodeFields (o : Opcode) (bs : List Byte) : opcodeOf (decodeFields o bs) = o := by
  cases o <;> rfl

@[simp] theorem len2Of_decodeFields (o : Opcode) (bs : List Byte) : len2Of (decodeFields o bs) = le16 bs 2 := by
  cases o <;> rfl

/-- The identifier of a row selects that row's fields (R84, R99). -/
theorem decode_of_opcodeId {bs : List Byte} (o : Opcode) (hlen : 2 ≤ bs.length) (hid : le16 bs 0 = opcodeId o) :
    decode bs = .ok (decodeFields o bs) := by
  unfold decode
  rw [if_neg (by omega), hid, selectOpcode_opcodeId]

/-- An identifier in no row of the map selects no command (R100). -/
theorem decode_of_not_mem {bs : List Byte} (hlen : 2 ≤ bs.length) (hid : le16 bs 0 ∉ opcodes.map opcodeId) :
    decode bs = .error (.unrecognised (le16 bs 0)) := by
  unfold decode
  rw [if_neg (by omega), selectOpcode_eq_none hid]

/-- A decoded command is the fields of the row its identifier names. -/
theorem decode_ok {bs : List Byte} {i : Instr} (h : decode bs = .ok i) :
    ∃ o, le16 bs 0 = opcodeId o ∧ i = decodeFields o bs := by
  unfold decode at h
  split at h
  · cases h
  · split at h
    · rename_i o ho
      cases h
      exact ⟨o, (opcodeId_of_selectOpcode ho).symm, rfl⟩
    · cases h

/-- Settles O3: the rows of the map one by one, then every identifier outside it. -/
theorem identifierSelectsCommandAndFields : Obligations.IdentifierSelectsCommandAndFields := fun _ hlen =>
  ⟨decode_of_opcodeId .sessionStart hlen, decode_of_opcodeId .memRead hlen, decode_of_opcodeId .memWrite hlen,
   decode_of_opcodeId .nop051F hlen, decode_of_opcodeId .nop0521 hlen, decode_of_opcodeId .rfStatus hlen,
   decode_of_opcodeId .battStatus hlen, decode_of_opcodeId .authResponse hlen, decode_of_opcodeId .factoryReset hlen,
   decode_of_opcodeId .rebootBl hlen, decode_of_not_mem hlen⟩

/-! ### Reading what the encoder wrote -/

/-- A 16-bit field is read back from wherever its two bytes stand. -/
theorem le16_of_drop {bs : List Byte} {k : Nat} {v : Half} (rest : List Byte) (h : bs.drop k = bytes16 v ++ rest) :
    le16 bs k = v := by
  have hread := le16_bytes16 v rest
  rw [← h] at hread
  simpa only [le16, byteAt_drop, Nat.zero_add, Nat.add_zero] using hread

/-- A 32-bit field is read back from wherever its four bytes stand. -/
theorem le32_of_drop {bs : List Byte} {k : Nat} {v : Word} (rest : List Byte) (h : bs.drop k = bytes32 v ++ rest) :
    le32 bs k = v := by
  have hread := le32_bytes32 v rest
  rw [← h] at hread
  simpa only [le32, byteAt_drop, Nat.zero_add, Nat.add_zero] using hread

/-- Four words are read back from wherever their sixteen bytes stand. -/
theorem leBlock_of_drop {bs : List Byte} {k : Nat} {b : Block} (rest : List Byte)
    (h : bs.drop k = bytesBlock b ++ rest) : leBlock bs k = b := by
  have hfrom (j : Nat) : bs.drop (k + j) = (bytesBlock b ++ rest).drop j := by rw [← h, List.drop_drop]
  have h0 : le32 bs k = b.w0 := le32_of_drop _ (hfrom 0)
  have h1 : le32 bs (k + 4) = b.w1 := le32_of_drop _ (hfrom 4)
  have h2 : le32 bs (k + 8) = b.w2 := le32_of_drop _ (hfrom 8)
  have h3 : le32 bs (k + 12) = b.w3 := le32_of_drop _ (hfrom 12)
  rw [leBlock, h0, h1, h2, h3]

theorem le16_encode_id (i : Instr) (rest : List Byte) : le16 (encode i ++ rest) 0 = opcodeId (opcodeOf i) :=
  le16_of_drop _ rfl

theorem le16_encode_len2 (i : Instr) (rest : List Byte) : le16 (encode i ++ rest) 2 = len2Of i :=
  le16_of_drop _ rfl

/-- The fields of an encoded command are read back from their places (R85 to R90). Only the data of a MEM_WRITE needs
the command to be well-formed: its length is not written, but computed from Count (R87). -/
theorem decodeFields_encode (i : Instr) (rest : List Byte) (hwf : i.WellFormed = true) :
    decodeFields (opcodeOf i) (encode i ++ rest) = i := by
  have hLen2 := le16_encode_len2 i rest
  cases i with
  | nop051F l => exact congrArg Instr.nop051F hLen2
  | nop0521 l => exact congrArg Instr.nop0521 hLen2
  | rfStatus l => exact congrArg Instr.rfStatus hLen2
  | battStatus l => exact congrArg Instr.battStatus hLen2
  | rebootBl l => exact congrArg Instr.rebootBl hLen2
  | sessionStart l ts => exact congrArg₂ Instr.sessionStart hLen2 (le32_of_drop rest rfl)
  | factoryReset l ts => exact congrArg₂ Instr.factoryReset hLen2 (le32_of_drop rest rfl)
  | authResponse l r => exact congrArg₂ Instr.authResponse hLen2 (leBlock_of_drop rest rfl)
  | memRead l off n pad ts =>
    have hoff : le16 (encode (.memRead l off n pad ts) ++ rest) 4 = off := le16_of_drop _ rfl
    have hts : le32 (encode (.memRead l off n pad ts) ++ rest) 8 = ts := le32_of_drop _ rfl
    show Instr.memRead _ _ n pad _ = _
    rw [hLen2, hoff, hts, len2Of]
  | memWrite l off n allow ts data =>
    have hoff : le16 (encode (.memWrite l off n allow ts data) ++ rest) 4 = off := le16_of_drop _ rfl
    have hts : le32 (encode (.memWrite l off n allow ts data) ++ rest) 8 = ts := le32_of_drop _ rfl
    have hlength : data.length = dataLength n := by simpa [Instr.WellFormed] using hwf
    have hdata : ((encode (.memWrite l off n allow ts data) ++ rest).drop 12).take (dataLength n) = data :=
      List.take_left' hlength
    show Instr.memWrite _ _ n allow _ (List.take (dataLength n) _) = _
    rw [hLen2, hoff, hts, hdata, len2Of]

/-- Settles O1: the identifier selects the command's own row, and its fields are read back. -/
theorem decodeInvertsEncode : Obligations.DecodeInvertsEncode := by
  intro i rest hwf
  have hlen : 2 ≤ (encode i ++ rest).length := by
    simp only [encode, List.length_append, length_bytes16]
    omega
  rw [decode_of_opcodeId (opcodeOf i) hlen (le16_encode_id i rest), decodeFields_encode i rest hwf]

/-- Settles O4: each of the payloads is the encoding of its command, with nothing after it. -/
theorem writtenPayloadsDecode : Obligations.WrittenPayloadsDecode :=
  ⟨decodeInvertsEncode (.sessionStart 4 0x12345678) [] rfl,
   decodeInvertsEncode (.memRead 8 0x0010 4 0 0x12345678) [] rfl,
   decodeInvertsEncode (.rfStatus 0) [] rfl,
   decodeInvertsEncode (.rebootBl 0) [] rfl⟩

/-! ### Writing what the decoder read

A field written after the bytes that stand before it in the string read extends them by its own bytes. -/

theorem take_append_byteAt {bs : List Byte} {k : Nat} (h : k + 1 ≤ bs.length) :
    bs.take k ++ [byteAt bs k] = bs.take (k + 1) := by
  rw [List.take_succ_eq_append_getElem h, byteAt, List.getD_eq_getElem _ _ h]

theorem take_append_two {bs : List Byte} {k : Nat} (h : k + 2 ≤ bs.length) :
    bs.take k ++ [byteAt bs k, byteAt bs (k + 1)] = bs.take (k + 2) := by
  rw [← take_append_byteAt h, ← take_append_byteAt (k := k) (by omega), List.append_assoc]
  rfl

theorem take_append_bytes16 {bs : List Byte} {k : Nat} (h : k + 2 ≤ bs.length) :
    bs.take k ++ bytes16 (le16 bs k) = bs.take (k + 2) := by
  rw [bytes16_le16, take_append_two h]

theorem take_append_bytes32 {bs : List Byte} {k : Nat} (h : k + 4 ≤ bs.length) :
    bs.take k ++ bytes32 (le32 bs k) = bs.take (k + 4) := by
  rw [bytes32_le32, ← take_append_two (k := k + 2) h, ← take_append_two (k := k) (by omega), List.append_assoc]
  rfl

theorem take_append_bytesBlock {bs : List Byte} {k : Nat} (h : k + 16 ≤ bs.length) :
    bs.take k ++ bytesBlock (leBlock bs k) = bs.take (k + 16) := by
  simp only [bytesBlock, leBlock, ← List.append_assoc]
  rw [take_append_bytes32 (by omega), take_append_bytes32 (by omega), take_append_bytes32 (by omega),
    take_append_bytes32 h]

/-- The fields MEM_READ and MEM_WRITE share, payload bytes 4 to 11 (R86, R87). -/
theorem take_append_memoryFields {bs : List Byte} (h : 12 ≤ bs.length) :
    bs.take 4 ++ (bytes16 (le16 bs 4) ++ [byteAt bs 6, byteAt bs 7] ++ bytes32 (le32 bs 8)) = bs.take 12 := by
  rw [← List.append_assoc, ← List.append_assoc, take_append_bytes16 (by omega), take_append_two (by omega),
    take_append_bytes32 h]

/-- The identifier and `Len2` written back are the first four bytes (R83). -/
theorem encode_decodeFields {bs : List Byte} {o : Opcode} (hid : le16 bs 0 = opcodeId o) (hlen : 4 ≤ bs.length) :
    encode (decodeFields o bs) = bs.take 4 ++ encodeFields (decodeFields o bs) := by
  have hfirst : bytes16 (le16 bs 0) = bs.take 2 := take_append_bytes16 (k := 0) (by omega)
  rw [encode, opcodeOf_decodeFields, len2Of_decodeFields, ← hid, hfirst, take_append_bytes16 hlen]

/-- The fields written back after the first four bytes are the bytes that follow these (R85 to R90). -/
theorem take_append_encodeFields_prefix {bs : List Byte} (o : Opcode)
    (hlen : 4 + (encodeFields (decodeFields o bs)).length ≤ bs.length) :
    bs.take 4 ++ encodeFields (decodeFields o bs) <+: bs := by
  cases o with
  | nop051F | nop0521 | rfStatus | battStatus | rebootBl =>
    exact (List.append_nil (bs.take 4)).symm ▸ List.take_prefix 4 bs
  | sessionStart | factoryReset =>
    exact take_append_bytes32 (k := 4) hlen ▸ List.take_prefix 8 bs
  | authResponse =>
    exact take_append_bytesBlock (k := 4) hlen ▸ List.take_prefix 20 bs
  | memRead =>
    exact take_append_memoryFields hlen ▸ List.take_prefix 12 bs
  | memWrite =>
    have hlen12 : 12 ≤ bs.length := by
      simp only [decodeFields, encodeFields, List.length_append, List.length_cons, length_bytes16, length_bytes32]
        at hlen
      omega
    simp only [decodeFields, encodeFields]
    rw [← List.append_assoc, take_append_memoryFields hlen12, ← List.take_add]
    exact List.take_prefix _ bs

/-- Settles O2: the header and the fields written back are the bytes they were read from, in their order. -/
theorem encodeInvertsDecode : Obligations.EncodeInvertsDecode := by
  intro bs i hdecode hlen
  obtain ⟨o, hid, rfl⟩ := decode_ok hdecode
  have hfields : 4 + (encodeFields (decodeFields o bs)).length ≤ bs.length := by
    simp only [encode, List.length_append, length_bytes16] at hlen
    omega
  refine List.prefix_iff_eq_take.1 ?_
  rw [encode_decodeFields hid (by omega)]
  exact take_append_encodeFields_prefix o hfields

namespace Machine

/-! ### A frame whose identifier is in no row of the map -/

theorem dispatchWB_unrecognised {s : State} {id : Half} (h : decode (wbBytes s) = .error (.unrecognised id)) :
    dispatchWB s = .next (noHandler s) := by
  unfold dispatchWB
  rw [h]

/-- Settles O22: the poll ends in the dispatcher, which has no handler for it (44_dispatcher.md R195). -/
theorem unrecognisedIdentifierHasNoEffect : Obligations.UnrecognisedIdentifierHasNoEffect := by
  intro s t rest size id htick hfaulted hextract hdecode
  calc step s = poll { s with agenda := rest } := step_tick s rest htick
    _ = dispatchWB t := poll_ready (s := { s with agenda := rest }) hfaulted hextract
    _ = .next (noHandler t) := dispatchWB_unrecognised hdecode

end Machine

end Sys2Proof

/-! PROOFS. The transport codec (spec 40_codec.md): obfuscation byte by byte and undone, the codec image of a reply
body, and the codec mode a received frame selects. -/

namespace Sys2Proof.Machine

/-! ### Obfuscation (40_codec.md R110, R111) -/

/-- Settles O5: the codec in encrypted mode undoes itself. -/
theorem obfuscateIsInvolution : Obligations.ObfuscateIsInvolution := fun p bs => codec_codec p true bs

@[simp] theorem length_obfuscate (p : Params) (bs : List Byte) : (obfuscate p bs).length = bs.length :=
  length_obfuscateFrom p 0 bs

/-- Positions in a whole string are counted from its first byte. -/
theorem byteAt_obfuscate (p : Params) (bs : List Byte) {k : Nat} (hk : k < bs.length) :
    byteAt (obfuscate p bs) k = byteAt bs k ^^^ keyByte p k := by
  rw [obfuscate, byteAt_obfuscateFrom p 0 k bs hk, Nat.zero_add]

/-- Settles O6: by position, and the rule's own example by evaluation. -/
theorem obfuscateXorsEachByteWithItsKeyByte : Obligations.ObfuscateXorsEachByteWithItsKeyByte :=
  ⟨fun p bs => ⟨length_obfuscate p bs, fun _ hk => byteAt_obfuscate p bs hk⟩, by decide⟩

/-! ### The body of a reply (40_codec.md R113, R114) -/

/-- The footer goes on with the key where the payload stopped: the two are one codec image. -/
theorem codec_append_footer (p : Params) (m : Bool) (payload : List Byte) :
    codec p m payload ++ footer p m payload.length = codec p m (payload ++ [0xFF, 0xFF]) := by
  cases m with
  | false => rfl
  | true =>
    have himage := obfuscateFrom_append p 0 payload [0xFF, 0xFF]
    rw [Nat.zero_add] at himage
    exact himage.symm

/-- A reply frame as markers and length around the codec image of its body. -/
theorem replyFrame_eq (p : Params) (m : Bool) (payload : List Byte) :
    replyFrame p m payload =
      [0xAB, 0xCD] ++ bytes16 (BitVec.ofNat 16 payload.length) ++ codec p m (payload ++ [0xFF, 0xFF]) ++
        [0xDC, 0xBA] := by
  rw [← codec_append_footer, ← List.append_assoc]
  rfl

/-- Settles O7: `SendReply` appends its frame to `TX` and writes nothing else. -/
theorem replyBodyIsCodecImage : Obligations.ReplyBodyIsCodecImage := by
  intro s payload
  rw [sendReply_eq, replyFrame_eq]
  simp only [codec, List.append_assoc]

/-! ### The codec mode a frame selects (40_codec.md R112) -/

/-- The resume test wins, even where `RESUME_ID` is 0x0514 (92_eei_decisions.md D46). -/
theorem modeAfter_resumeId (resumeId : Half) (mode : Bool) : modeAfter resumeId resumeId mode = true := if_pos rfl

theorem modeAfter_sessionStart {resumeId : Half} (h : 0x0514 ≠ resumeId) (mode : Bool) :
    modeAfter resumeId 0x0514 mode = false := by
  rw [modeAfter, if_neg h, if_pos rfl]

theorem modeAfter_other {resumeId rawId : Half} (hresume : rawId ≠ resumeId) (hstart : rawId ≠ 0x0514) (mode : Bool) :
    modeAfter resumeId rawId mode = mode := by
  rw [modeAfter, if_neg hresume, if_neg hstart]

/-- A 16-bit field of ring bytes taken out is the field of the ring. -/
theorem le16_ringBytes (s : State) (r : Nat) {n k : Nat} (h : k + 1 < n) :
    le16 (ringBytes s r n) k = ringLe16 s r k := by
  rw [le16, ringLe16, byteAt_ringBytes _ _ _ _ h, byteAt_ringBytes _ _ _ _ (by omega)]

/-- The raw identifier is the frame's bytes 4 and 5, as they stand in the ring (30_encoding.md R84). -/
theorem frameMode_eq (s : State) (r size : Nat) :
    frameMode s r size = modeAfter s.cfg.resumeId (ringLe16 s r 4) s.isEncrypted := by
  rw [frameMode, le16_ringBytes _ _ (by omega)]
  rfl

/-- A whole frame at `rd` whose end marker is in place is consumed; its CRC decides the answer only
(41_ring_extractor.md R121 steps 5 to 9). -/
theorem tryExtract_whole {s : State} {size : Nat} (hheader : HeaderAtRd s) (hsize : size = (ringLe16 s s.rd 2).toNat)
    (hfit : size + 8 ≤ s.cfg.cap) (hpend : size + 8 ≤ pend s.cfg.cap s.rd s.wr)
    (hDC : ringByte s s.rd (size + 6) = 0xDC) (hBA : ringByte s s.rd (size + 7) = 0xBA) :
    tryExtract s =
      (if verifyCrc s.cfg size (frameBody s s.rd size) then .ready size else .noFrame .noneCrc,
        consumed s s.rd size) := by
  rw [tryExtract_header hheader, examine_whole s _ _ _ size hsize hfit hpend hDC hBA, consume_eq]

/-- Settles O10: the state after the frame is the same whatever its CRC, and its mode follows the raw identifier. -/
theorem rawIdentifierSelectsCodecMode : Obligations.RawIdentifierSelectsCodecMode := by
  intro s size rawId hheader hsize hfit hpend hDC hBA hraw
  have hmode : (tryExtract s).2.isEncrypted = modeAfter s.cfg.resumeId rawId s.isEncrypted := by
    rw [tryExtract_whole hheader hsize hfit hpend hDC hBA, hraw]
    exact frameMode_eq s s.rd size
  rw [hmode]
  refine ⟨?_, ?_, ?_⟩
  · rintro rfl
    exact modeAfter_resumeId _ _
  · rintro hresume rfl
    exact modeAfter_sessionStart hresume _
  · exact fun hresume hstart => modeAfter_other hresume hstart _

end Sys2Proof.Machine

/-! PROOFS. The ring extractor (spec 41_ring_extractor.md): the scan one byte at a time, the checks at a start marker in
their order, what a consumed frame leaves in the ring, and a command frame extracted wherever the ring wraps. -/

namespace Sys2Proof.Machine

/-! ### The scan from a cursor moved on (41_ring_extractor.md R123 to R125) -/

/-- An extraction uses the read cursor only as the place its scan starts from: from a cursor at which the scan answers
the same, the extraction does too. -/
theorem tryExtract_of_scan_eq {s : State} {r : Nat}
    (h : scan s (pend s.cfg.cap s.rd s.wr) s.rd = scan s (pend s.cfg.cap r s.wr) r) :
    tryExtract s = tryExtract { s with rd := r } := by
  unfold tryExtract
  rw [scan_congr s { s with rd := r } rfl rfl, h]
  rfl

/-- With something pending, the extraction is that from the next cursor where the scan passes the byte at `rd`. -/
theorem tryExtract_pass {s : State} (hs : CursorsInRange s) (hne : s.rd ≠ s.wr)
    (hpass : ∀ n, pend s.cfg.cap s.rd s.wr = n + 1 → scan s (n + 1) s.rd = scan s n (ring s.cfg.cap (s.rd + 1))) :
    tryExtract s = tryExtract { s with rd := (s.rd + 1) % s.cfg.cap } := by
  obtain ⟨-, hrd, hwr⟩ := hs
  obtain ⟨n, hn⟩ := Nat.exists_eq_succ_of_ne_zero (mt (pend_eq_zero_iff _ _ _ hrd hwr).1 hne)
  have hnext : pend s.cfg.cap ((s.rd + 1) % s.cfg.cap) s.wr = n := by
    rw [pend_advance _ _ _ 1 hrd hwr (by omega), hn, Nat.succ_sub_one]
  apply tryExtract_of_scan_eq
  rw [hnext, hn]
  exact hpass n hn

/-- With nothing pending, an extraction finds nothing and changes nothing. -/
theorem tryExtract_empty {s : State} (h : pend s.cfg.cap s.rd s.wr = 0) : tryExtract s = (.noFrame .noneEmpty, s) := by
  unfold tryExtract
  rw [h]
  rfl

/-- A 0xAB at `rd` with fewer than 8 bytes pending waits (41_ring_extractor.md R124). -/
theorem tryExtract_short {s : State} (h0 : pend s.cfg.cap s.rd s.wr ≠ 0) (h8 : pend s.cfg.cap s.rd s.wr < 8)
    (hAB : rbByte s s.rd = 0xAB) : tryExtract s = (.noFrame .noneIncomplete, s) := by
  obtain ⟨n, hn⟩ := Nat.exists_eq_succ_of_ne_zero h0
  unfold tryExtract
  rw [hn, scan_short s n s.rd hAB (by omega)]

/-- Settles O8: the four things the scan can find at `rd`. -/
theorem scanPassesBytesOneAtATime : Obligations.ScanPassesBytesOneAtATime := by
  intro s hs
  have ⟨_, hrd, hwr⟩ := hs
  have hempty := pend_eq_zero_iff s.cfg.cap s.rd s.wr hrd hwr
  refine ⟨?_, ?_, ?_, ?_⟩
  · exact fun heq => tryExtract_empty (hempty.2 heq)
  · exact fun hne hAB => tryExtract_pass hs hne fun n _ => scan_pass s n s.rd hAB
  · exact fun hne hAB h8 => tryExtract_short (mt hempty.1 hne) h8 hAB
  · exact fun hne hAB h8 hCD => tryExtract_pass hs hne fun n hn => scan_skip s n s.rd hAB (by omega) hCD

/-! ### The checks at a start marker (60_exceptions.md R239) -/

theorem examine_oversize {s : State} {w r n size : Nat} (hsize : size = (ringLe16 s r 2).toNat)
    (hover : s.cfg.cap < size + 8) : examine s w r n = (.noFrame (.noneOversize size), { s with rd := w }) := by
  subst hsize
  exact if_pos hover

theorem examine_incomplete {s : State} {w r n size : Nat} (hsize : size = (ringLe16 s r 2).toNat)
    (hfit : size + 8 ≤ s.cfg.cap) (hn : n < size + 8) :
    examine s w r n = (.noFrame .noneIncomplete, { s with rd := r }) := by
  subst hsize
  exact (if_neg hfit.not_gt).trans (if_pos hn)

theorem examine_badEnd {s : State} {w r n size : Nat} (hsize : size = (ringLe16 s r 2).toNat)
    (hfit : size + 8 ≤ s.cfg.cap) (hn : size + 8 ≤ n)
    (hend : ringByte s r (size + 6) ≠ 0xDC ∨ ringByte s r (size + 7) ≠ 0xBA) :
    examine s w r n = (.noFrame .noneBadEnd, { s with rd := w }) := by
  subst hsize
  exact (if_neg hfit.not_gt).trans ((if_neg hn.not_gt).trans (if_pos hend))

/-- The CRC check says whether the payload's CRC is the field after it (42_crc.md R151 to R153). -/
theorem verifyCrc_iff (p : Params) (size : Nat) (body : List Byte) :
    verifyCrc p size body = true ↔ crc16 p (body.take size) = le16 body size := beq_iff_eq

/-- Settles O9: a clause for each check of `examine`; a whole frame is consumed whatever its CRC says. -/
theorem headerChecksRunInOrder : Obligations.HeaderChecksRunInOrder := by
  intro s size hheader hsize
  rw [tryExtract_header hheader]
  refine ⟨examine_oversize hsize, examine_incomplete hsize, examine_badEnd hsize, ?_⟩
  rintro hfit hpend hDC hBA raw body rfl hbody
  rw [examine_whole s _ _ _ size hsize hfit hpend hDC hBA, consume_eq] at hbody ⊢
  obtain rfl : body = frameBody s s.rd size := hbody
  refine ⟨?_, fun k hk => ?_, fun k hk => ?_⟩
  · simp only [verifyCrc_iff]
  · rw [wbByte_consumed, if_pos hk]
  · rw [wbByte_consumed, if_neg hk.not_gt]

/-! ### A consumed frame (41_ring_extractor.md R122, R129, R131) -/

/-- An extraction that answers `READY` or `NONE_CRC` consumed the frame at which its scan stopped, which was whole. -/
theorem ExtractionCase.consumed_of_frame {s t : State} {e : Extraction} (h : ExtractionCase s e t)
    (he : (∃ n, e = .ready n) ∨ e = .noFrame .noneCrc) :
    ∃ r n size, scan s (pend s.cfg.cap s.rd s.wr) s.rd = .header r n ∧ size = (ringLe16 s r 2).toNat ∧ size + 8 ≤ n ∧
      (∀ m, e = .ready m → m = size) ∧ t = consumed s r size := by
  cases h with
  | empty | short | oversize | incomplete | badEnd => simp at he
  | crc r n hscan _ hn => exact ⟨r, n, _, hscan, rfl, hn, nofun, rfl⟩
  | ready r n hscan _ hn => exact ⟨r, n, _, hscan, rfl, hn, fun _ hm => (Extraction.ready.inj hm).symm, rfl⟩

/-- Settles O12: the consumed frame starts where the scan stopped, `j` bytes past `rd`. -/
theorem consumedFrameIsZeroedExactly : Obligations.ConsumedFrameIsZeroedExactly := by
  intro s t e ⟨_, hrd, _⟩ hx he
  obtain ⟨r, n, size, hscan, hsize, hn, hready, rfl⟩ := (ExtractionCase.of_eq hx).consumed_of_frame he
  obtain ⟨j, hj, rfl, rfl, hAB, hCD, -⟩ := scan_header_at s hrd r n hscan
  have hlt := pend_lt s.cfg.cap s.rd s.wr (Nat.zero_lt_of_lt hrd)
  rw [ringLe16_mod] at hsize
  refine ⟨j, size, by omega, by omega, hsize, hready, hAB, hCD, fun k hk => ?_, fun a _ ha => ?_, ?_⟩
  · calc ringByte (consumed s ((s.rd + j) % s.cfg.cap) size) (s.rd + j) k
        = ringByte (consumed s ((s.rd + j) % s.cfg.cap) size) ((s.rd + j) % s.cfg.cap) k := (ringByte_mod _ _ _).symm
      _ = 0x00 := ringByte_consumed s _ size k (by omega) hk
  · refine rbByte_consumed s _ size a fun k hk => ?_
    rw [Nat.mod_add_mod]
    exact ha k hk
  · show ((s.rd + j) % s.cfg.cap + size + 8) % s.cfg.cap = _
    rw [Nat.add_assoc, Nat.mod_add_mod, Nat.add_assoc (s.rd + j)]

/-- An extraction that consumes no frame moves the read cursor only (41_ring_extractor.md R120). -/
theorem ExtractionCase.noFrame_frame {s t : State} {o : PollOutcome} (h : ExtractionCase s (.noFrame o) t)
    (ho : o ≠ .noneCrc) : t = { s with rd := t.rd } := by
  cases h with
  | crc => exact absurd rfl ho
  | empty | short | oversize | incomplete | badEnd => rfl

/-- Settles O14: over the cases of an extraction. -/
theorem extractorWritesOnlyItsRegisters : Obligations.ExtractorWritesOnlyItsRegisters := by
  intro s t e hx
  have hcase := ExtractionCase.of_eq hx
  refine ⟨hcase.frame, ?_⟩
  rintro o rfl ho
  exact hcase.noFrame_frame ho

/-! ### A command frame at `rd`, wherever the ring wraps (41_ring_extractor.md R128, R132) -/

/-- Settles O15: the bytes are a command frame, which is consumed; the working buffer then holds its plaintext body. -/
theorem frameIsExtractedAtEverySplit : Obligations.FrameIsExtractedAtEverySplit := by
  rintro s m payload raw hs hfit rfl hmode hpend hring
  obtain ⟨hready, hm, hbody⟩ := tryExtract_commandFrame hs hfit hmode hpend hring
  refine ⟨_, hready, rfl, hm, fun k hk => ?_, fun k hk => ?_⟩
  · rw [wbByte_consumed, if_pos hk, hbody]
  · rw [wbByte_consumed, if_neg hk.not_gt]

end Sys2Proof.Machine

/-! PROOFS. The device-lock authenticator (spec 43_authenticator.md): the transition table of `Authenticate`, the
lockout over every step, and the chunks a write skips in the password window. -/

namespace Sys2Proof.Machine

/-! ### `Authenticate` (43_authenticator.md R162, R163, R169) -/

/-- A response passes a key where it is the encryption of the challenge under it, word for word. -/
theorem isBadChallenge_eq_false_iff (p : Params) (k c r : Block) :
    isBadChallenge p k c r = false ↔ aesEnc p k c = r := by
  unfold isBadChallenge
  generalize aesEnc p k c = e
  cases e
  cases r
  simp [and_assoc]

theorem customGood_iff (s : State) (r : Block) :
    customGood s r = true ↔ s.customKeyPresent = true ∧ aesEnc s.cfg s.customKey s.challenge = r := by
  rw [customGood, Bool.and_eq_true, Bool.not_eq_true', isBadChallenge_eq_false_iff]

theorem defaultGood_iff (s : State) (r : Block) :
    defaultGood s r = true ↔ aesEnc s.cfg s.cfg.defaultKey s.challenge = r := by
  rw [defaultGood, Bool.not_eq_true', isBadChallenge_eq_false_iff]

/-- The counter counts to 3 and stays there. -/
theorem saturated_succ (n : BitVec 2) (h : n ≠ 3) : BitVec.ofNat 2 (min (n.toNat + 1) 3) = n + 1 := by
  revert n
  decide

theorem three_le_toNat_iff (n : BitVec 2) : 3 ≤ n.toNat ↔ n = 3 := by
  revert n
  decide

/-- The row `FAC = 3` of the table: no path lowers a counter of 3, and the lockout overrides it. -/
theorem authResult_of_fac_eq_three {s : State} (h : s.fac = 3) (r : Block) : authResult s r = (true, 3) := by
  have hkeeps : (tryKeys s r).2 = 3 := by
    unfold tryKeys
    simp only [h]
    split
    · rfl
    · split <;> rfl
  rw [authResult, if_pos ((three_le_toNat_iff _).2 hkeeps)]

/-- The column custom-good. -/
theorem authResult_of_customGood {s : State} {r : Block} (hfac : s.fac ≠ 3) (h : customGood s r = true) :
    authResult s r = (false, s.fac) := by
  have htry : tryKeys s r = (false, s.fac) := by rw [tryKeys, if_pos h]
  rw [authResult, htry, if_neg (by rwa [three_le_toNat_iff])]

/-- The column default-good. -/
theorem authResult_of_defaultGood {s : State} {r : Block} (hfac : s.fac ≠ 3) (hc : customGood s r = false)
    (h : defaultGood s r = true) : authResult s r = (false, 0) := by
  have hlt : s.fac.toNat < 3 := by rwa [← not_le, three_le_toNat_iff]
  have htry : tryKeys s r = (false, 0) := by rw [tryKeys, if_neg (by simp [hc]), if_pos h, if_pos hlt]
  rw [authResult, htry, if_neg (by decide)]

/-- The column bad: where the counter reaches 3, the lockout answers the same. -/
theorem authResult_of_bad {s : State} {r : Block} (hfac : s.fac ≠ 3) (hc : customGood s r = false)
    (hd : defaultGood s r = false) : authResult s r = (true, s.fac + 1) := by
  have htry : tryKeys s r = (true, s.fac + 1) := by
    rw [tryKeys, if_neg (by simp [hc]), if_neg (by simp [hd]), saturated_succ _ hfac]
  rw [authResult, htry]
  split
  · rw [(three_le_toNat_iff (s.fac + 1)).1 ‹_›]
  · rfl

/-- Settles O34: the columns of the table in turn, each over the encryption it compares. -/
theorem authenticateFollowsItsTable : Obligations.AuthenticateFollowsItsTable := by
  rintro s t r rfl
  refine ⟨rfl, fun _ _ hcustom hdefault => ?_⟩
  rw [← customGood_iff] at hcustom
  rw [← defaultGood_iff, hcustom] at hdefault
  rw [authenticate_locked, authenticate_fac, hdefault, hcustom]
  refine ⟨fun h3 => ?_, fun h3 hc => ?_, fun h3 hd => ?_, fun h3 hc hd => ?_⟩
  · simp [authResult_of_fac_eq_three h3]
  · simp [authResult_of_customGood h3 hc]
  · obtain ⟨hc, hd⟩ := hd
    simp [authResult_of_defaultGood h3 (Bool.eq_false_iff.2 hc) hd]
  · have hd' : defaultGood s r = false := Bool.eq_false_iff.2 fun h => hd ⟨hc, h⟩
    simp [authResult_of_bad h3 (Bool.eq_false_iff.2 hc) hd']

/-! ### The lockout (43_authenticator.md R165) -/

/-- Three failures have locked the device. -/
def LockedOut (s : State) : Prop := s.fac = 3 ∧ s.locked = true

/-- "Every later `Authenticate` leaves `FAC = 3` and `Locked = 1`, whatever the response." -/
theorem lockedOut_authenticate {s : State} (h : LockedOut s) (r : Block) : LockedOut (authenticate r s) := by
  simp [LockedOut, authResult_of_fac_eq_three h.1]

/-- A state with the same counter and lock. -/
theorem LockedOut.of_eq {s t : State} (h : LockedOut s) (hfac : t.fac = s.fac) (hlocked : t.locked = s.locked) :
    LockedOut t := ⟨hfac.trans h.1, hlocked.trans h.2⟩

/-- A version reply writes neither `FAC` nor `Locked`. -/
theorem lockedOut_sendVersion {s : State} (h : LockedOut s) : LockedOut (sendVersion s) := by
  rw [sendVersion_eq]
  exact h

theorem ExtractionCase.keeps_lockout {s t : State} {e : Extraction} (hx : ExtractionCase s e t) (h : LockedOut s) :
    LockedOut t := by
  rw [hx.frame]
  exact h

/-- "No other rule writes `FAC` or `Locked`", so no command ends the lockout: REBOOT_BL leaves that to the end of its
poll. -/
theorem ExecCase.keeps_lockout {s t : State} {i : Instr} (hx : ExecCase s i t) (h : LockedOut s) : LockedOut t := by
  cases hx with
  | fault | staleRead | staleWrite | nopA | nopB | deniedRead | deniedWrite | rf | batt | read | reboot =>
    exact h.of_eq rfl rfl
  | session l ts => exact lockedOut_sendVersion (s := setTimestamp ts s) h
  | factory l ts =>
    exact lockedOut_sendVersion (s := setTimestamp ts (signal .pwrsaveExit (signal .factoryDefaults s))) h
  | write l off n allow ts data =>
    rw [permittedWrite_eq]
    exact h.of_eq rfl rfl
  | auth l r =>
    rw [refreshAfterResponse_eq]
    exact lockedOut_authenticate h r

/-- The command whose poll ends with `Reset()` is REBOOT_BL, and it records `REBOOT` (44_dispatcher.md R194). -/
theorem ev_of_returnsReboot {i : Instr} {s t : State} (h : returnsReboot i = true) (he : exec i s = .next t) :
    t.ev = s.ev ++ [.reboot] := by
  cases i with
  | rebootBl l =>
    injection he with he
    exact he ▸ rfl
  | _ => cases h

/-- Settles O35: over the next states of a step; a poll whose command returned `REBOOT` and a power-on are its two
exits. -/
theorem lockoutLastsUntilReset : Obligations.LockoutLastsUntilReset := by
  intro s t hfac hlocked hstep
  have h : LockedOut s := ⟨hfac, hlocked⟩
  have extracted : ∀ {rest e u}, tryExtract { s with agenda := rest } = (e, u) → LockedOut u :=
    fun hx => (ExtractionCase.of_eq hx).keeps_lockout h
  cases step_cases hstep with
  | idle | ignored | byte | ports => exact .inl h
  | noFrame rest o u _ _ hx => exact .inl ((extracted hx).of_eq rfl rfl)
  | noCommand rest n u err _ _ hx =>
    left
    split <;> exact (extracted hx).of_eq rfl rfl
  | command rest n u i v _ _ hx _ he =>
    by_cases hreboot : returnsReboot i = true
    · have hev : u.ev = s.ev := by rw [(ExtractionCase.of_eq hx).frame]
      rw [if_pos hreboot, resetRegisters_ev, ev_of_returnsReboot hreboot he, hev]
      exact .inr (.inl rfl)
    · rw [if_neg hreboot]
      exact .inl ((exec_cases he).keeps_lockout (extracted hx))
  | powerOn rest ha => exact .inr (.inr ⟨rest, ha⟩)

/-! ### The password window (43_authenticator.md R168) -/

theorem pwSkipped_eq_false_iff (s : State) (allow : Byte) (o : Half) :
    pwSkipped s (allowsPw allow) o = false ↔ ¬PwProtected s allow o := by
  rw [pwSkipped_eq, decide_eq_false_iff_not]

/-- The STORE_WR events among the new events of a permitted write are those of its chunks outside the password window;
a reinitialisation adds none. -/
theorem permittedWrite_storeWr (off : Half) (allow : Bool) (data : List Byte) (m : Nat) (s : State) :
    ∃ new : List OutEvent, (permittedWrite off allow data m s).ev = s.ev ++ new ∧
      ∀ o d, .storeWr o d ∈ new ↔
        ∃ i, (i < m ∧ pwSkipped s allow (chunkOffset off i) = false) ∧ chunkOffset off i = o ∧ chunkData data i = d := by
  obtain ⟨hre, hno⟩ := permittedWrite_reinit off allow data m s
  cases hr : needsReinit off m s with
  | true =>
    rw [(hre hr).1, writeChunks_ev, List.append_assoc]
    exact ⟨_, rfl, fun o d => by simp⟩
  | false =>
    rw [(hno hr).1, writeChunks_ev]
    exact ⟨_, rfl, fun o d => by simp⟩

/-- A MEM_WRITE that is neither stale nor denied, its data within the working buffer (44_dispatcher.md R187). -/
theorem exec_memWrite_permitted {l off : Half} {n allow : Byte} {ts : Word} {data : List Byte} {s : State}
    (hfit : 12 + 8 * (n.toNat / 8) ≤ s.cfg.wbCap) (hts : TimestampAccepted s 0x051D ts)
    (hperm : ¬WriteIsDenied s off n.toNat) :
    exec (.memWrite l off n allow ts data) s = .next (finish .replied
      (sendReply (memWritePayload off) (permittedWrite off (allowsPw allow) data (chunkCount n) s))) := by
  have hreach : ¬s.cfg.wbCap < memWriteReach n := not_lt.2 hfit
  calc exec (.memWrite l off n allow ts data) s
      = execMemWrite off n allow ts data s := rfl
    _ = .next (replyWrite off n (allowsPw allow) data s) := by
        rw [execMemWrite, withinWB_of_le (by omega), isStale_of_accepted hts, if_neg Bool.false_ne_true, if_neg hreach]
    _ = _ := by rw [replyWrite, if_neg (by rwa [writeDenied_iff])]

/-- Settles O43: every MEM_WRITE but a permitted one records nothing, and a permitted one just its chunks outside the
window. -/
theorem passwordWindowIsWriteProtected : Obligations.PasswordWindowIsWriteProtected := by
  refine ⟨fun l off n ts data s t hlock he => ?_, fun l off n allow ts data s hfit hts hperm => ?_⟩
  · cases exec_cases he with
    | fault | staleWrite | deniedWrite => exact ⟨[], (List.append_nil _).symm, nofun⟩
    | write =>
      obtain ⟨new, hev, hmem⟩ := permittedWrite_storeWr off (allowsPw 0) data (chunkCount n) s
      refine ⟨new, hev, fun o d hod ⟨hlo, hhi⟩ => ?_⟩
      obtain ⟨i, ⟨_, hskip⟩, rfl, _⟩ := (hmem o d).1 hod
      exact (pwSkipped_eq_false_iff _ _ _).1 hskip ⟨hlo, hhi, hlock, rfl⟩
  · obtain ⟨new, hev, hmem⟩ := permittedWrite_storeWr off (allowsPw allow) data (chunkCount n) s
    refine ⟨_, new, exec_memWrite_permitted hfit hts hperm, hev, fun o d => ?_⟩
    have hoffset : ∀ i, o.toNat = (off.toNat + 8 * i) % 0x10000 ↔ chunkOffset off i = o := fun i => by
      rw [← chunkOffset_toNat, BitVec.toNat_inj, eq_comm]
    simp only [hmem, pwSkipped_eq_false_iff]
    constructor
    · rintro ⟨i, ⟨hi, hprot⟩, rfl, rfl⟩
      exact ⟨⟨i, hi, (hoffset i).2 rfl, rfl⟩, hprot⟩
    · rintro ⟨⟨i, hi, ho, rfl⟩, hprot⟩
      obtain rfl := (hoffset i).1 ho
      exact ⟨i, ⟨hi, hprot⟩, rfl, rfl⟩

end Sys2Proof.Machine

/-! PROOFS. The dispatcher and its handlers (spec 44_dispatcher.md): the end of a poll, the reply and the effects of
each command, what no command writes, and that it sends one reply at most. -/

namespace Sys2Proof.Machine

/-! ### The end of a poll (44_dispatcher.md R180, R197) -/

/-- A working buffer that decodes to a command ends its poll with that command's handler, and with `Reset()` after
REBOOT_BL. -/
theorem dispatchWB_ok {s t : State} {i : Instr} (hd : decode (wbBytes s) = .ok i) (he : exec i s = .next t) :
    dispatchWB s = .next (if opcodeOf i = .rebootBl then resetRegisters t else t) := by
  unfold dispatchWB
  rw [hd]
  simp only [he, endPoll, returnsReboot, beq_iff_eq]

/-- Settles O20: the tick is a poll, which dispatches the frame it extracted. -/
theorem stepRunsDecodedCommand : Obligations.StepRunsDecodedCommand := by
  intro s t u rest size i htick hfaulted hextract hdecode he
  calc step s = poll { s with agenda := rest } := step_tick s rest htick
    _ = dispatchWB t := poll_ready (s := { s with agenda := rest }) hfaulted hextract
    _ = _ := dispatchWB_ok hdecode he

/-- Settles O21: the poll records its outcome, and an extraction writes no session register but the codec mode. -/
theorem pollWithoutFrameEndsQuietly : Obligations.PollWithoutFrameEndsQuietly := by
  intro s t rest o htick hfaulted hextract
  have hstep : step s = .next (finish o t) :=
    (step_tick s rest htick).trans (poll_noFrame (s := { s with agenda := rest }) hfaulted hextract)
  refine ⟨hstep, ?_⟩
  rw [(ExtractionCase.of_eq hextract).frame]
  exact ⟨rfl, rfl, rfl, rfl, rfl, rfl, rfl, rfl⟩

/-- `Reset()` gives every register its reset value (70_reset_and_hazards.md R250). -/
theorem holdsResetValues_resetRegisters (s : State) : HoldsResetValues (resetRegisters s) where
  keyPresent := rfl
  key := rfl
  locked := rfl
  fac := rfl
  isEncrypted := rfl
  timestamp := rfl
  rd := rfl
  wr := rfl
  wb _ := rfl

/-- Settles O25: the step is `Reset()` after the handler, at the state the extraction left. -/
theorem rebootFrameResetsMachine : Obligations.RebootFrameResetsMachine := by
  intro s t rest size l htick hfaulted hextract hdecode
  refine ⟨resetRegisters (finish .reboot (signal .reboot t)), ?_, holdsResetValues_resetRegisters _, ?_⟩
  · exact stepRunsDecodedCommand s t _ rest size _ htick hfaulted hextract hdecode rfl
  · rw [(ExtractionCase.of_eq hextract).frame]
    exact ⟨⟨rfl, rfl⟩, rfl, rfl, hfaulted, rfl, rfl, rfl, fun _ => rfl⟩

/-! ### Replies (44_dispatcher.md R182) -/

/-- `SendReply` appends one frame, as the statements spell it, and writes nothing else. -/
theorem sendReply_wireReply (payload : List Byte) (s : State) :
    sendReply payload s = { s with tx := s.tx ++ wireReply s payload } := by
  rw [sendReply_eq, replyFrame_eq]
  rfl

/-- Every memory reads in a state with the same memories as before. -/
theorem sameMemory_of_eq {s t : State} (hcfg : t.cfg = s.cfg) (hrb : t.rb = s.rb) (hwb : t.wb = s.wb)
    (hstore : t.store = s.store) : SameMemory s t :=
  ⟨rbByte_congr hrb, wbByte_congr hwb hcfg, storeByte_congr hstore⟩

/-! ### Commands that leave session state alone (44_dispatcher.md R188 to R191, R194) -/

/-- Settles O28: neither handler does more than record its outcome. -/
theorem noOpsDoNothing : Obligations.NoOpsDoNothing := fun _ _ => ⟨rfl, rfl⟩

/-- Settles O33: the reset is the poll's (44_dispatcher.md R197), not the handler's. -/
theorem rebootHandlerSignalsOnly : Obligations.RebootHandlerSignalsOnly := fun _ _ => rfl

/-- The 0x0528 payload, its header in bytes. -/
theorem rfStatusPayload_eq (p : Ports) :
    rfStatusPayload p = [0x28, 0x05, 0x04, 0x00] ++ bytes16 p.rssi ++ [p.noise, p.glitch] := rfl

/-- The 0x052A payload, its header in bytes. -/
theorem battStatusPayload_eq (p : Ports) :
    battStatusPayload p = [0x2A, 0x05, 0x04, 0x00] ++ bytes16 p.voltage ++ bytes16 p.current := rfl

/-- Settles O29: the handler is one `SendReply`. -/
theorem rfStatusRepliesWithPort : Obligations.RfStatusRepliesWithPort := by
  intro l s
  calc exec (.rfStatus l) s = .next (finish .replied (sendReply (rfStatusPayload s.ports) s)) := rfl
    _ = _ := by
      rw [sendReply_wireReply, rfStatusPayload_eq]
      rfl

/-- Settles O30: the handler is one `SendReply`. -/
theorem battStatusRepliesWithPort : Obligations.BattStatusRepliesWithPort := by
  intro l s
  calc exec (.battStatus l) s = .next (finish .replied (sendReply (battStatusPayload s.ports) s)) := rfl
    _ = _ := by
      rw [sendReply_wireReply, battStatusPayload_eq]
      rfl

/-! ### The version reply (44_dispatcher.md R184, R185, R193) -/

/-- Under `ON_EACH_VERSION_REPLY` the challenge is redrawn before a version reply. -/
theorem refreshBeforeVersion_of_each {s : State} (h : s.cfg.challengePolicy = .onEachVersionReply) :
    refreshBeforeVersion s = redrawChallenge s := by
  rw [refreshBeforeVersion, h]

/-- Under the other policies it is not. -/
theorem refreshBeforeVersion_of_not_each {s : State} (h : s.cfg.challengePolicy ≠ .onEachVersionReply) :
    refreshBeforeVersion s = s := by
  unfold refreshBeforeVersion
  split
  · contradiction
  · rfl
  · rfl

theorem challengeAfterVersion_sendVersion (s : State) : ChallengeAfterVersion s (sendVersion s) := by
  unfold ChallengeAfterVersion
  rw [sendVersion_eq]
  refine ⟨fun h => ?_, fun h => ?_⟩
  · rw [refreshBeforeVersion_of_each h, redrawChallenge_challenge]
  · rw [refreshBeforeVersion_of_not_each h]

/-- The payload of a version reply shows the key presence and the lock screen of the state before the redraw, and the
challenge after it. -/
theorem versionPayload_refreshBeforeVersion (s : State) :
    ∃ d e, versionPayload (refreshBeforeVersion s) =
      [0x15, 0x05, 0x24, 0x00] ++ versionField s.cfg d ++ [zeroOne s.customKeyPresent, zeroOne s.ports.lockScreen] ++
        freeBytes e 2 ++ bytesBlock (refreshBeforeVersion s).challenge := by
  rw [refreshBeforeVersion_eq]
  exact ⟨_, _, rfl⟩

theorem versionReplySent_sendVersion (s : State) : VersionReplySent s (sendVersion s) := by
  obtain ⟨d, e, hpayload⟩ := versionPayload_refreshBeforeVersion s
  refine ⟨versionField s.cfg d, freeBytes e 2, length_versionField _ _, length_freeBytes _ _, fun k hk hv => ?_,
    fun hv => ?_, ?_⟩
  · rw [byteAt_versionField _ _ _ hk, if_pos hv]
  · rw [byteAt_versionField _ _ _ hv, if_neg (lt_irrefl _), if_pos rfl]
  · rw [sendVersion_eq, replyFrame_eq, hpayload]
    rfl

/-- What a version reply leaves behind a handler that has only seeded `Timestamp` with `v` and brought the events to
`es`. -/
theorem versionReply_of_seeded (s : State) (v : Word) (es : List OutEvent) :
    ∃ t, t = finish .replied (sendVersion { s with timestamp := v, ev := es }) ∧ t.timestamp = v ∧ t.ev = es ∧
      VersionReplySent s t ∧ ChallengeAfterVersion s t ∧ OnlySessionRegistersDiffer s t ∧ SameMemory s t := by
  refine ⟨_, rfl, ?_, ?_, versionReplySent_sendVersion { s with timestamp := v, ev := es },
    challengeAfterVersion_sendVersion { s with timestamp := v, ev := es }, ?_, ?_⟩
  all_goals rw [sendVersion_eq]
  · rfl
  · rfl
  · rfl
  · exact sameMemory_of_eq rfl rfl rfl rfl

/-- Settles O31: the handler is `SendVersion` after the seed. -/
theorem sessionStartSeedsAndReplies : Obligations.SessionStartSeedsAndReplies := by
  intro l ts s hfit
  obtain ⟨t, rfl, htimestamp, hev, hreply⟩ := versionReply_of_seeded s ts s.ev
  exact ⟨_, withinWB_of_le hfit _, htimestamp, rfl, hev, hreply⟩

/-- Settles O32: the handler is `SendVersion` after the two signals and the seed. -/
theorem factoryResetSignalsSeedsAndReplies : Obligations.FactoryResetSignalsSeedsAndReplies := by
  intro l ts s hfit
  obtain ⟨t, rfl, htimestamp, hev, hreply⟩ :=
    versionReply_of_seeded s ts (s.ev ++ [OutEvent.factoryDefaults] ++ [OutEvent.pwrsaveExit])
  exact ⟨_, withinWB_of_le hfit _, htimestamp, rfl, hev.trans (List.append_assoc _ _ _), hreply⟩

/-! ### The lock-status reply (44_dispatcher.md R192) -/

/-- The redraw after a response: under `AFTER_EACH_RESPONSE` the challenge is the next four free words, and under the
other policies it stays (43_authenticator.md R166). -/
theorem refreshAfterResponse_frame (s : State) :
    ∃ c d, refreshAfterResponse s = { s with challenge := c, draws := d } ∧
      (s.cfg.challengePolicy = .afterEachResponse → c = freeBlock s.draws) ∧
      (s.cfg.challengePolicy ≠ .afterEachResponse → c = s.challenge) := by
  unfold refreshAfterResponse
  cases s.cfg.challengePolicy with
  | afterEachResponse => exact ⟨_, _, rfl, fun _ => rfl, fun h => absurd rfl h⟩
  | onEachVersionReply => exact ⟨_, _, rfl, nofun, fun _ => rfl⟩
  | onResetOnly => exact ⟨_, _, rfl, nofun, fun _ => rfl⟩

/-- The 0x052E payload, its header in bytes. -/
theorem lockStatusPayload_eq (s : State) :
    lockStatusPayload s = [0x2E, 0x05, 0x04, 0x00, zeroOne s.locked] ++ freeBytes s.draws 3 := rfl

/-- The lock-status reply, as the statements spell it. -/
theorem sendLockStatus_wireReply (s : State) :
    sendLockStatus s =
      { s with
        tx := s.tx ++ wireReply s ([0x2E, 0x05, 0x04, 0x00, zeroOne s.locked] ++ freeBytes s.draws 3)
        draws := s.draws + 3 } := by
  rw [sendLockStatus, sendReply_wireReply, lockStatusPayload_eq]
  rfl

/-- Settles O36: the reply reports the lock that `Authenticate` left, and the redraw comes after its three draws. -/
theorem authResponseReportsLock : Obligations.AuthResponseReportsLock := by
  intro l r s hfit
  obtain ⟨c, d, hredraw, heach, hkept⟩ := refreshAfterResponse_frame (sendLockStatus (authenticate r s))
  have hexec : exec (.authResponse l r) s =
      .next (finish (if (authenticate r s).locked then .authFail else .replied)
        { sendLockStatus (authenticate r s) with challenge := c, draws := d }) := by
    rw [← hredraw]
    exact withinWB_of_le hfit _
  rw [sendLockStatus_wireReply] at hexec
  exact ⟨_, hexec, rfl, rfl, rfl, ⟨freeBytes s.draws 3, length_freeBytes _ _, rfl⟩, heach, hkept, rfl,
    sameMemory_of_eq rfl rfl rfl rfl⟩

/-! ### MEM_READ (44_dispatcher.md R186) -/

/-- A MEM_READ whose fields fit and that passes the timestamp and length checks goes on to the gate. -/
theorem exec_memRead_accepted {l off : Half} {n pad : Byte} {ts : Word} {s : State} (hfit : ReadFieldsFit s.cfg)
    (hts : TimestampAccepted s 0x051B ts) (hlen : n.toNat ≤ s.cfg.maxReadLen) :
    exec (.memRead l off n pad ts) s = .next (replyRead off n s) := by
  calc exec (.memRead l off n pad ts) s
      = execMemRead off n ts s := rfl
    _ = .next (replyRead off n s) := by
        rw [execMemRead, withinWB_of_le (memReadReach_le_of_fit hfit), isStale_of_accepted hts,
          if_neg Bool.false_ne_true, if_neg (not_lt.2 hlen)]

/-- The 0x051C payload, its identifier in bytes. -/
theorem memReadPayload_eq (off : Half) (n : Byte) (data : List Byte) :
    memReadPayload off n data =
      [0x1C, 0x05] ++ bytes16 (BitVec.ofNat 16 (n.toNat + 4)) ++ bytes16 off ++ [n, 0x00] ++ data := rfl

/-- Settles O38: a closed gate answers zero bytes in place of the read. -/
theorem deniedReadRepliesZeroData : Obligations.DeniedReadRepliesZeroData := by
  intro l off n pad ts s hfit hts hlen hdenied
  rw [exec_memRead_accepted hfit hts hlen, replyRead, if_pos ((readDenied_iff s off n.toNat).2 hdenied),
    sendReply_wireReply, memReadPayload_eq]
  rfl

/-- Settles O39: past the gate the reply carries what `MemRead` returned. -/
theorem permittedReadRepliesStorage : Obligations.PermittedReadRepliesStorage := by
  intro l off n pad ts s hfit hts hlen hperm
  have hexec : exec (.memRead l off n pad ts) s = .next (finish .replied
      (sendReply (memReadPayload off n (memReadData off n.toNat s)) (memReadEffect off n.toNat s))) := by
    rw [exec_memRead_accepted hfit hts hlen, replyRead, if_neg (by rwa [readDenied_iff])]
  rw [sendReply_wireReply, memReadPayload_eq] at hexec
  exact ⟨_, memReadData off n.toNat s, hexec, length_memReadData _ _ _,
    fun himage k hk hspace => byteAt_memReadData_image himage off hk hspace, rfl, rfl, rfl, rfl,
    sameMemory_of_eq rfl rfl rfl rfl⟩

/-! ### The chunks of a MEM_WRITE (44_dispatcher.md R187) -/

/-- The 0x051E payload, its header in bytes. -/
theorem memWritePayload_eq (off : Half) : memWritePayload off = [0x1E, 0x05, 0x02, 0x00] ++ bytes16 off := rfl

/-- A MEM_WRITE whose fields fit and that passes the timestamp check goes on to the gate. -/
theorem exec_memWrite_accepted {l off : Half} {n allow : Byte} {ts : Word} {data : List Byte} {s : State}
    (hfit : 12 + 8 * (n.toNat / 8) ≤ s.cfg.wbCap) (hts : TimestampAccepted s 0x051D ts) :
    exec (.memWrite l off n allow ts data) s = .next (replyWrite off n (allowsPw allow) data s) := by
  have hreach : ¬s.cfg.wbCap < memWriteReach n := not_lt.2 hfit
  calc exec (.memWrite l off n allow ts data) s
      = execMemWrite off n allow ts data s := rfl
    _ = .next (replyWrite off n (allowsPw allow) data s) := by
        rw [execMemWrite, withinWB_of_le (by omega), isStale_of_accepted hts, if_neg Bool.false_ne_true, if_neg hreach]

/-- Settles O40: a closed gate leaves the acknowledgement alone. -/
theorem deniedWriteIsAcknowledged : Obligations.DeniedWriteIsAcknowledged := by
  intro l off n allow ts data s hfit hts hdenied
  rw [exec_memWrite_accepted hfit hts, replyWrite, if_pos ((writeDenied_iff s off n.toNat).2 hdenied),
    sendReply_wireReply, memWritePayload_eq]
  rfl

/-- Which chunks store where is decided by what no chunk writes. -/
theorem chunkStores_writeChunks (off : Half) (a : Bool) (data : List Byte) (m : Nat) (s : State) (allow : Byte)
    (i x : Nat) : ChunkStores (writeChunks off a data m s) off allow i x ↔ ChunkStores s off allow i x := by
  rw [writeChunks_eq]
  exact Iff.rfl

theorem writeChunks_cfg (off : Half) (a : Bool) (data : List Byte) (m : Nat) (s : State) :
    (writeChunks off a data m s).cfg = s.cfg := by
  rw [writeChunks_eq]

theorem length_chunkData_le (data : List Byte) (i : Nat) : (chunkData data i).length ≤ 8 := List.length_take_le _ _

theorem length_chunkData {data : List Byte} {i : Nat} (h : 8 * (i + 1) ≤ data.length) :
    (chunkData data i).length = 8 := by
  rw [chunkData, List.length_take, List.length_drop]
  omega

theorem byteAt_chunkData (data : List Byte) (i : Nat) {k : Nat} (hk : k < 8) :
    byteAt (chunkData data i) k = byteAt data (8 * i + k) := by
  rw [chunkData, byteAt_take _ _ _ hk, byteAt_drop]

/-- A chunk of 8 bytes stores, under `IMAGE`, each of them that lies in the space (20_memory.md R67). -/
theorem storeByte_writeChunk_of_stores {s : State} {off : Half} {allow : Byte} {data : List Byte} {i a : Nat}
    (himage : s.cfg.storageModel = .image) (hdata : 8 * (i + 1) ≤ data.length) (ha : a < storeSize)
    (h : ChunkStores s off allow i a) :
    storeByte (writeChunk off (allowsPw allow) data s i) a = byteAt data (8 * i + (a - (chunkOffset off i).toNat)) := by
  obtain ⟨hopen, hlo, hhi⟩ := h
  have hlen := length_chunkData hdata
  rw [writeChunk, (pwSkipped_eq_false_iff s allow _).2 hopen, if_neg Bool.false_ne_true,
    storeByte_memWriteEffect_image himage, if_pos (by omega), byteAt_chunkData _ _ (by omega)]

/-- A chunk leaves every other byte: it stores nothing under `ORACLE`, past the space, or outside its 8 bytes. -/
theorem storeByte_writeChunk_other {s : State} {off : Half} {allow : Byte} (data : List Byte) {i a : Nat}
    (h : s.cfg.storageModel = .image → a < storeSize → ¬ChunkStores s off allow i a) :
    storeByte (writeChunk off (allowsPw allow) data s i) a = storeByte s a := by
  unfold writeChunk
  split
  · rfl
  · rename_i hopen
    have hopen' : ¬PwProtected s allow (chunkOffset off i) :=
      (pwSkipped_eq_false_iff s allow _).1 (Bool.eq_false_iff.2 hopen)
    cases hmodel : s.cfg.storageModel with
    | oracle => exact storeByte_congr (by rw [memWriteEffect_store, storeData_oracle _ _ _ hmodel]) a
    | image =>
      have hlen := length_chunkData_le data i
      rw [storeByte_memWriteEffect_image hmodel, if_neg]
      rintro ⟨hlo, hhi, ha⟩
      exact h hmodel ha ⟨hopen', hlo, by omega⟩

/-- The chunks leave every byte that none of them stores to. -/
theorem storeByte_writeChunks_other {s : State} {off : Half} {allow : Byte} (data : List Byte) {m a : Nat}
    (h : s.cfg.storageModel = .image → a < storeSize → ∀ i, i < m → ¬ChunkStores s off allow i a) :
    storeByte (writeChunks off (allowsPw allow) data m s) a = storeByte s a := by
  induction m with
  | zero => rfl
  | succ m ih =>
    have hbefore := ih fun himage ha i hi => h himage ha i (by omega)
    rw [writeChunks_succ, storeByte_writeChunk_other, hbefore]
    intro himage ha
    rw [chunkStores_writeChunks]
    rw [writeChunks_cfg] at himage
    exact h himage ha m (by omega)

/-- Two chunks of a write, which has at most 31, do not overlap, even where their offsets wrap. -/
theorem chunkStores_unique {s : State} {off : Half} {allow : Byte} {i j a : Nat} (hi : i < 32) (hj : j < 32)
    (h : ChunkStores s off allow i a) (h' : ChunkStores s off allow j a) : i = j := by
  obtain ⟨-, hlo, hhi⟩ := h
  obtain ⟨-, hlo', hhi'⟩ := h'
  rw [chunkOffset_toNat] at hlo hhi hlo' hhi'
  omega

/-- The chunks store, under `IMAGE`, each byte of each of them: no later chunk stores there again. -/
theorem storeByte_writeChunks_of_stores {s : State} {off : Half} {allow : Byte} {data : List Byte} {m i a : Nat}
    (himage : s.cfg.storageModel = .image) (hm : m ≤ 32) (hdata : 8 * m ≤ data.length) (hi : i < m)
    (ha : a < storeSize) (h : ChunkStores s off allow i a) :
    storeByte (writeChunks off (allowsPw allow) data m s) a =
      byteAt data (8 * i + (a - (chunkOffset off i).toNat)) := by
  induction m with
  | zero => omega
  | succ m ih =>
    have himage' : (writeChunks off (allowsPw allow) data m s).cfg.storageModel = .image := by
      rwa [writeChunks_cfg]
    rw [writeChunks_succ]
    by_cases him : i = m
    · subst him
      exact storeByte_writeChunk_of_stores himage' hdata ha ((chunkStores_writeChunks ..).2 h)
    · rw [storeByte_writeChunk_other data, ih (by omega) (by omega) (by omega)]
      intro _ _ hlater
      exact him (chunkStores_unique (by omega) (by omega) h ((chunkStores_writeChunks ..).1 hlater))

/-! ### A permitted MEM_WRITE -/

/-- The storage a permitted write leaves is that its chunks leave. -/
theorem permittedWrite_store (off : Half) (allow : Bool) (data : List Byte) (m : Nat) (s : State) :
    (permittedWrite off allow data m s).store = (writeChunks off allow data m s).store := by
  rw [permittedWrite_eq]

/-- Settles O41: the storage bytes are those the chunks leave, and the acknowledgement comes after them. -/
theorem permittedWriteStoresItsChunks : Obligations.PermittedWriteStoresItsChunks := by
  intro l off n allow ts data s hfit hts hdata hperm
  have hm : n.toNat / 8 ≤ 32 := by
    have := n.isLt
    omega
  obtain ⟨t, ht⟩ : ∃ t, t = finish .replied
      (sendReply (memWritePayload off) (permittedWrite off (allowsPw allow) data (n.toNat / 8) s)) := ⟨_, rfl⟩
  have hexec : exec (.memWrite l off n allow ts data) s = .next t := ht ▸ exec_memWrite_permitted hfit hts hperm
  obtain ⟨e, st, present, key, hframe⟩ := permittedWrite_frame off (allowsPw allow) data (n.toNat / 8) s
  have hrecord : t = { s with
      tx := s.tx ++ wireReply s ([0x1E, 0x05, 0x02, 0x00] ++ bytes16 off), ev := e, store := st
      customKeyPresent := present, customKey := key, lastOutcome := some .replied } := by
    rw [ht, hframe, sendReply_wireReply, memWritePayload_eq]
    rfl
  have hstore : ∀ a, storeByte t a = storeByte (writeChunks off (allowsPw allow) data (n.toNat / 8) s) a :=
    storeByte_congr (by rw [ht, finish_store, sendReply_store, permittedWrite_store])
  have hkeep : ∀ a, (s.cfg.storageModel = .image → a < storeSize → ∀ i, i < n.toNat / 8 →
      ¬ChunkStores s off allow i a) → storeByte t a = storeByte s a :=
    fun a h => (hstore a).trans (storeByte_writeChunks_other data h)
  exact ⟨t, hexec, by rw [hrecord], by rw [hrecord],
    fun himage i a hi ha h => (hstore a).trans (storeByte_writeChunks_of_stores himage hm hdata.ge hi ha h),
    fun a h => hkeep a fun _ _ => h,
    fun a ha => hkeep a fun _ ha' => absurd ha' (not_lt.2 ha),
    fun horacle a => hkeep a fun himage => absurd (horacle.symm.trans himage) nofun,
    rbByte_congr (by rw [hrecord]), wbByte_congr (by rw [hrecord]) (by rw [hrecord]), by rw [hrecord]⟩

/-- A permitted write reinitialises where a chunk starts in the calibration window of an unlocked device. -/
theorem needsReinit_iff (off : Half) (m : Nat) (s : State) :
    needsReinit off m s = true ↔ s.locked = false ∧ ∃ i, i < m ∧ StartsInCalibration s (chunkOffset off i) := by
  simp only [needsReinit, inCalWindow_eq, List.any_eq_true, List.mem_range, Bool.and_eq_true, decide_eq_true_eq,
    Bool.not_eq_true']
  constructor
  · rintro ⟨i, hi, hcal, hlocked⟩
    exact ⟨hlocked, i, hi, hcal⟩
  · rintro ⟨hlocked, i, hi, hcal⟩
    exact ⟨i, hi, hcal, hlocked⟩

/-- The events of the chunks, with the password window as the statements spell it. -/
theorem writeChunks_ev_protected (off : Half) (allow : Byte) (data : List Byte) (m : Nat) (s : State) :
    (writeChunks off (allowsPw allow) data m s).ev =
      s.ev ++ ((List.range m).filter fun i => decide (¬PwProtected s allow (chunkOffset off i))).map
        fun i => OutEvent.storeWr (chunkOffset off i) ((data.drop (8 * i)).take 8) := by
  rw [writeChunks_ev]
  simp only [pwSkipped_eq, decide_not, chunkData]

/-- Settles O42: the chunks' events, then what `StorageReinit` does where it is called. -/
theorem calibrationWriteReinitialisesOnce : Obligations.CalibrationWriteReinitialisesOnce := by
  intro l off n allow ts data s t hfit hts hperm he
  rw [exec_memWrite_permitted hfit hts hperm] at he
  injection he with he
  subst he
  rw [finish_ev, finish_customKeyPresent, finish_customKey, sendReply_ev, sendReply_customKeyPresent,
    sendReply_customKey]
  obtain ⟨hre, hno⟩ := permittedWrite_reinit off (allowsPw allow) data (n.toNat / 8) s
  rw [writeChunks_ev_protected] at hre hno
  refine ⟨_, rfl, fun hcal => hre ((needsReinit_iff _ _ _).2 hcal), fun hnone => hno ?_⟩
  rw [Bool.eq_false_iff, Ne, needsReinit_iff]
  rintro ⟨hunlocked, i, hi, hcal⟩
  rcases hnone with hlocked | houtside
  · exact Bool.false_ne_true (hunlocked.symm.trans hlocked)
  · exact houtside i hi hcal

/-! ### Fields that the handlers' operations leave -/

@[simp] theorem sendVersion_timestamp (s : State) : (sendVersion s).timestamp = s.timestamp := by rw [sendVersion_eq]
@[simp] theorem sendVersion_locked (s : State) : (sendVersion s).locked = s.locked := by rw [sendVersion_eq]
@[simp] theorem sendVersion_fac (s : State) : (sendVersion s).fac = s.fac := by rw [sendVersion_eq]
@[simp] theorem sendVersion_customKeyPresent (s : State) :
    (sendVersion s).customKeyPresent = s.customKeyPresent := by rw [sendVersion_eq]
@[simp] theorem sendVersion_customKey (s : State) : (sendVersion s).customKey = s.customKey := by rw [sendVersion_eq]
@[simp] theorem sendVersion_store (s : State) : (sendVersion s).store = s.store := by rw [sendVersion_eq]
@[simp] theorem sendVersion_faulted (s : State) : (sendVersion s).faulted = s.faulted := by rw [sendVersion_eq]

section
variable (off : Half) (allow : Bool) (data : List Byte) (m : Nat) (s : State)

@[simp] theorem permittedWrite_timestamp : (permittedWrite off allow data m s).timestamp = s.timestamp := by
  rw [permittedWrite_eq]
@[simp] theorem permittedWrite_locked : (permittedWrite off allow data m s).locked = s.locked := by
  rw [permittedWrite_eq]
@[simp] theorem permittedWrite_fac : (permittedWrite off allow data m s).fac = s.fac := by rw [permittedWrite_eq]
@[simp] theorem permittedWrite_challenge : (permittedWrite off allow data m s).challenge = s.challenge := by
  rw [permittedWrite_eq]
@[simp] theorem permittedWrite_faulted : (permittedWrite off allow data m s).faulted = s.faulted := by
  rw [permittedWrite_eq]

end

@[simp] theorem refreshAfterResponse_timestamp (s : State) : (refreshAfterResponse s).timestamp = s.timestamp := by
  rw [refreshAfterResponse_eq]
@[simp] theorem refreshAfterResponse_customKeyPresent (s : State) :
    (refreshAfterResponse s).customKeyPresent = s.customKeyPresent := by rw [refreshAfterResponse_eq]
@[simp] theorem refreshAfterResponse_customKey (s : State) : (refreshAfterResponse s).customKey = s.customKey := by
  rw [refreshAfterResponse_eq]
@[simp] theorem refreshAfterResponse_store (s : State) : (refreshAfterResponse s).store = s.store := by
  rw [refreshAfterResponse_eq]
@[simp] theorem refreshAfterResponse_faulted (s : State) : (refreshAfterResponse s).faulted = s.faulted := by
  rw [refreshAfterResponse_eq]

/-! ### What no command writes (44_dispatcher.md R183) -/

/-- No command writes the parameters, the cursors, the ring, the working buffer, the codec mode, the ports or the
agenda. -/
theorem ExecCase.frame {s t : State} {i : Instr} (h : ExecCase s i t) :
    t = { s with
      timestamp := t.timestamp, locked := t.locked, fac := t.fac, challenge := t.challenge
      customKeyPresent := t.customKeyPresent, customKey := t.customKey, faulted := t.faulted, tx := t.tx, ev := t.ev
      store := t.store, draws := t.draws, lastOutcome := t.lastOutcome } := by
  cases h with
  | fault | staleRead | staleWrite | nopA | nopB | deniedRead | deniedWrite | rf | batt | read | reboot => rfl
  | session | factory =>
    rw [sendVersion_eq]
    rfl
  | write =>
    rw [permittedWrite_eq]
    rfl
  | auth =>
    rw [refreshAfterResponse_eq]
    rfl

/-- Only the session commands write `Timestamp`. -/
theorem ExecCase.timestamp_eq {s t : State} {i : Instr} (h : ExecCase s i t) (hs : opcodeOf i ≠ .sessionStart)
    (hf : opcodeOf i ≠ .factoryReset) : t.timestamp = s.timestamp := by
  cases h with
  | fault | staleRead | staleWrite | nopA | nopB | deniedRead | deniedWrite | rf | batt | read | write | reboot => simp
  | session => exact absurd rfl hs
  | factory => exact absurd rfl hf
  | auth => simp [sendLockStatus]

/-- Only AUTH_RESPONSE writes `Locked` and `FAC`. -/
theorem ExecCase.lock_eq {s t : State} {i : Instr} (h : ExecCase s i t) (ha : opcodeOf i ≠ .authResponse) :
    t.locked = s.locked ∧ t.fac = s.fac := by
  cases h with
  | fault | staleRead | staleWrite | session | deniedRead | read | deniedWrite | write | nopA | nopB | rf | batt |
    factory | reboot => simp
  | auth => exact absurd rfl ha

/-- Only these three write `Challenge`. -/
theorem ExecCase.challenge_eq {s t : State} {i : Instr} (h : ExecCase s i t) (ha : opcodeOf i ≠ .authResponse)
    (hs : opcodeOf i ≠ .sessionStart) (hf : opcodeOf i ≠ .factoryReset) : t.challenge = s.challenge := by
  cases h with
  | fault | staleRead | staleWrite | nopA | nopB | deniedRead | deniedWrite | rf | batt | read | write | reboot => simp
  | session => exact absurd rfl hs
  | factory => exact absurd rfl hf
  | auth => exact absurd rfl ha

/-- Only MEM_WRITE writes storage and the key cache. -/
theorem ExecCase.storage_eq {s t : State} {i : Instr} (h : ExecCase s i t) (hw : opcodeOf i ≠ .memWrite) :
    t.customKeyPresent = s.customKeyPresent ∧ t.customKey = s.customKey ∧ t.store = s.store := by
  cases h with
  | fault | staleRead | session | deniedRead | read | nopA | nopB | rf | batt | factory | reboot => simp
  | auth => simp [sendLockStatus]
  | staleWrite | deniedWrite | write => exact absurd rfl hw

/-- No command clears `Faulted`. -/
theorem ExecCase.keeps_faulted {s t : State} {i : Instr} (h : ExecCase s i t) (hf : s.faulted = true) :
    t.faulted = true := by
  cases h with
  | fault => rfl
  | staleRead | staleWrite | session | deniedRead | read | deniedWrite | write | nopA | nopB | rf | batt | factory |
    reboot => simp [hf]
  | auth => simp [sendLockStatus, hf]

/-- Settles O47: over the next states of a command, register by register. -/
theorem handlersWriteOnlyTheirRegisters : Obligations.HandlersWriteOnlyTheirRegisters := by
  intro i s t he
  have h := exec_cases he
  have hcfg : t.cfg = s.cfg := by rw [h.frame]
  have hrb : t.rb = s.rb := by rw [h.frame]
  have hwb : t.wb = s.wb := by rw [h.frame]
  refine ⟨hcfg, by rw [h.frame], by rw [h.frame], by rw [h.frame], by rw [h.frame], by rw [h.frame], rbByte_congr hrb,
    wbByte_congr hwb hcfg, h.timestamp_eq, h.lock_eq, h.challenge_eq, fun hw => ?_, h.keeps_faulted⟩
  obtain ⟨hpresent, hkey, hstore⟩ := h.storage_eq hw
  exact ⟨hpresent, hkey, storeByte_congr hstore⟩

/-! ### One reply at most (44_dispatcher.md R198) -/

theorem length_memReadPayload (off : Half) (n : Byte) (data : List Byte) :
    (memReadPayload off n data).length = 8 + data.length := by
  rw [memReadPayload, List.length_append]
  rfl

/-- A command sends nothing, or one frame, around a payload of at most the 8 + 255 bytes of a MEM_READ reply. -/
theorem ExecCase.tx_eq {s t : State} {i : Instr} (h : ExecCase s i t) :
    t.tx = s.tx ∨ ∃ payload, payload.length ≤ 8 + 255 ∧ t.tx = s.tx ++ replyFrame s.cfg s.isEncrypted payload := by
  have version : ∀ v es, ∃ payload, payload.length ≤ 8 + 255 ∧
      (sendVersion { s with timestamp := v, ev := es }).tx = s.tx ++ replyFrame s.cfg s.isEncrypted payload :=
    fun v es => by
      obtain ⟨payload, c, d, hlen, heq⟩ := sendVersion_frame { s with timestamp := v, ev := es }
      exact ⟨payload, by omega, by rw [heq]⟩
  cases h with
  | fault | staleRead | staleWrite | nopA | nopB | reboot => exact .inl rfl
  | session l ts =>
    rw [finish_tx]
    exact .inr (version ts s.ev)
  | factory l ts =>
    rw [finish_tx]
    exact .inr (version ts _)
  | deniedRead l off n =>
    refine .inr ⟨_, ?_, by rw [finish_tx, sendReply_tx]⟩
    rw [length_memReadPayload, List.length_replicate]
    exact Nat.add_le_add_left (Nat.le_of_lt_succ n.isLt) 8
  | read l off n =>
    refine .inr ⟨memReadPayload off n (memReadData off n.toNat s), ?_, rfl⟩
    rw [length_memReadPayload, length_memReadData]
    exact Nat.add_le_add_left (Nat.le_of_lt_succ n.isLt) 8
  | rf => exact .inr ⟨rfStatusPayload s.ports, Nat.le_add_right 8 255, rfl⟩
  | batt => exact .inr ⟨battStatusPayload s.ports, Nat.le_add_right 8 255, rfl⟩
  | deniedWrite l off => exact .inr ⟨memWritePayload off, Nat.le_add_left 6 257, rfl⟩
  | write l off =>
    rw [permittedWrite_eq]
    exact .inr ⟨memWritePayload off, Nat.le_add_left 6 257, rfl⟩
  | auth l r =>
    obtain ⟨c, d, heq⟩ := authResponse_frame r s
    rw [heq]
    exact .inr ⟨lockStatusPayload _, Nat.le_add_right 8 255, rfl⟩

/-- Settles O48: over the next states of a command. -/
theorem commandSendsAtMostOneReply : Obligations.CommandSendsAtMostOneReply := by
  intro i s t he
  rcases (exec_cases he).tx_eq with h | ⟨payload, hlen, h⟩
  · exact .inl h
  · exact .inr ⟨payload, hlen, h.trans (by rw [replyFrame_eq, wireReply])⟩

end Sys2Proof.Machine

/-! PROOFS. Errors and the locked device (spec 60_exceptions.md): a structural desync, that no error stops the machine,
the stale and the overlong command, the faulted machine, and that a locked device does not reach storage. -/

namespace Sys2Proof.Machine

/-! ### A structural desync (60_exceptions.md R233) -/

/-- Settles O11: of the cases of an extraction, these two set `rd` to the sampled write cursor. -/
theorem desyncDiscardsAllPending : Obligations.DesyncDiscardsAllPending := by
  intro s t o hx ho
  cases ExtractionCase.of_eq hx with
  | oversize | badEnd => rfl
  | empty | short | incomplete | crc => simp at ho

/-! ### No error stops the machine (60_exceptions.md R230) -/

/-- A handler behind a reach check answers a next state where it does by itself. -/
theorem withinWB_next {reach : Nat} {s : State} {run : Host.Outcome State Fault Refusal} (h : ∃ t, run = .next t) :
    ∃ t, withinWB reach s run = .next t := by
  unfold withinWB
  split
  · exact ⟨_, rfl⟩
  · exact h

/-- Every command completes in every state, be it with a Fault (log 10). -/
theorem exec_next (i : Instr) (s : State) : ∃ t, exec i s = .next t := by
  cases i with
  | nop051F | nop0521 | rfStatus | battStatus | rebootBl => exact ⟨_, rfl⟩
  | sessionStart | authResponse | factoryReset => exact withinWB_next ⟨_, rfl⟩
  | memRead | memWrite =>
    apply withinWB_next
    split
    · exact ⟨_, rfl⟩
    · split <;> exact ⟨_, rfl⟩

/-- The dispatch of any working buffer completes, whether or not it holds a command. -/
theorem dispatchWB_next (s : State) : ∃ t, dispatchWB s = .next t := by
  unfold dispatchWB
  split
  · next i _ =>
    obtain ⟨t, ht⟩ := exec_next i s
    rw [ht]
    exact ⟨_, rfl⟩
  · exact ⟨_, rfl⟩
  · exact ⟨_, rfl⟩

theorem poll_next (s : State) : ∃ t, poll s = .next t := by
  unfold poll
  split
  · exact ⟨_, rfl⟩
  · split
    · exact ⟨_, rfl⟩
    · exact dispatchWB_next _

theorem step_next (s : State) : ∃ t, step s = .next t := by
  unfold step advance
  split
  · exact ⟨_, rfl⟩
  · next e rest _ =>
    cases e with
    | tick => exact poll_next _
    | byte | ports | powerOn => exact ⟨_, rfl⟩

/-- Settles O23: a step is at most one poll, and a poll at most one command. -/
theorem noStepStops : Obligations.NoStepStops := ⟨step_next, exec_next⟩

/-! ### The stale command (60_exceptions.md R235) -/

/-- Another Timestamp than the session's is stale where the identifier is in `TS_CHECKED` (44_dispatcher.md R181). -/
theorem isStale_of_ne {s : State} {id : Half} {ts : Word} (hid : id ∈ s.cfg.tsChecked) (hts : ts ≠ s.timestamp) :
    isStale id ts s = true := by simp [isStale, hid, hts]

/-- Settles O37: in both handlers the timestamp check comes next after the reach of the fixed fields. -/
theorem staleCommandChangesNothing : Obligations.StaleCommandChangesNothing := by
  refine fun l off n b ts data s hfit hts => ⟨fun hid => ?_, fun hid => ?_⟩
  · calc exec (.memRead l off n b ts) s
        = execMemRead off n ts s := rfl
      _ = .next (finish .stale s) := by
          rw [execMemRead, withinWB_of_le ((memReadReach_le s.cfg).trans hfit), if_pos (isStale_of_ne hid hts)]
  · calc exec (.memWrite l off n b ts data) s
        = execMemWrite off n b ts data s := rfl
      _ = .next (finish .stale s) := by
          rw [execMemWrite, withinWB_of_le hfit, if_pos (isStale_of_ne hid hts)]

/-! ### The overlong command (60_exceptions.md R236, 44_dispatcher.md R186, R187, R196) -/

/-- The fields of MEM_READ end at byte 7, and at byte 12 where its Timestamp is checked. -/
theorem lt_memReadReach {p : Params} (h : p.wbCap < 7 ∨ ((0x051B : Half) ∈ p.tsChecked ∧ p.wbCap < 12)) :
    p.wbCap < memReadReach p := by
  unfold memReadReach
  split
  · omega
  · next hid => exact h.resolve_right fun hts => hid hts.1

theorem exec_memRead_tooLong {l off : Half} {n pad : Byte} {ts : Word} {s : State} (hfit : ReadFieldsFit s.cfg)
    (hts : TimestampAccepted s 0x051B ts) (hlen : s.cfg.maxReadLen < n.toNat) :
    exec (.memRead l off n pad ts) s = .next (raiseFault .readTooLong s) := by
  calc exec (.memRead l off n pad ts) s
      = execMemRead off n ts s := rfl
    _ = .next (raiseFault .readTooLong s) := by
        rw [execMemRead, withinWB_of_le (memReadReach_le_of_fit hfit), isStale_of_accepted hts,
          if_neg Bool.false_ne_true, if_pos hlen]

/-- The data of a MEM_WRITE are looked at after its fixed fields and its Timestamp. -/
theorem exec_memWrite_overread {l off : Half} {n allow : Byte} {ts : Word} {data : List Byte} {s : State}
    (hts : TimestampAccepted s 0x051D ts) (hdata : s.cfg.wbCap < 12 + 8 * (n.toNat / 8)) :
    exec (.memWrite l off n allow ts data) s = .next (raiseFault .wbOverread s) := by
  rcases Nat.lt_or_ge s.cfg.wbCap 12 with hfields | hfields
  · exact withinWB_of_lt hfields _
  · have hreach : s.cfg.wbCap < memWriteReach n := hdata
    calc exec (.memWrite l off n allow ts data) s
        = execMemWrite off n allow ts data s := rfl
      _ = .next (raiseFault .wbOverread s) := by
          rw [execMemWrite, withinWB_of_le hfields, isStale_of_accepted hts, if_neg Bool.false_ne_true, if_pos hreach]

/-- Settles O44: where the fields do not fit the handler is not run at all; the other two are `READ_TOO_LONG` and the
data of a write. -/
theorem overlongCommandRaisesFault : Obligations.OverlongCommandRaisesFault :=
  fun _ _ _ _ _ _ _ _ =>
    ⟨exec_memRead_tooLong, fun h => withinWB_of_lt (lt_memReadReach h) _, fun h => withinWB_of_lt h _,
      exec_memWrite_overread, fun h => ⟨withinWB_of_lt h _, withinWB_of_lt h _⟩, fun h => withinWB_of_lt h _⟩

/-! ### The faulted machine (60_exceptions.md R236, R240) -/

theorem poll_faulted {s : State} (h : s.faulted = true) : poll s = .next s := if_pos h

/-- Settles O24: a poll and the DMA producer both pass over a faulted machine (the latter log 19); new port values leave
`Faulted`, and a power-on alone clears it. -/
theorem faultedMachineIgnoresTicks : Obligations.FaultedMachineIgnoresTicks := by
  refine ⟨fun s rest hf ha => ?_, fun s t hf hstep hp => ?_⟩
  · rcases ha with ha | ⟨b, ha⟩
    · exact (step_tick s rest ha).trans (poll_faulted (s := { s with agenda := rest }) hf)
    · unfold step advance
      rw [ha]
      exact congrArg _ (receive_faulted (s := { s with agenda := rest }) b hf)
  · cases step_cases hstep with
    | idle | ignored | ports => exact hf
    | noFrame _ _ _ hf' | noCommand _ _ _ _ hf' | command _ _ _ _ _ hf' | byte _ _ hf' =>
      exact absurd (hf'.symm.trans hf) Bool.false_ne_true
    | powerOn rest ha => exact absurd ha (hp rest)

/-! ### Storage out of the machine's reach (60_exceptions.md R242, R238)

Non-interference as a commuting diagram: replacing the contents of storage commutes with every operation of a poll that
neither reads nor writes storage, and behind a closed gate those are all of them. -/

/-- The machine with other contents of storage. -/
def setStore (m : Memory) (s : State) : State := { s with store := m }

/-- An outcome with `f` applied to its next state. -/
def mapNext (f : State → State) : Host.Outcome State Fault Refusal → Host.Outcome State Fault Refusal
  | .next s => .next (f s)
  | .fault r => .fault r
  | .refused r => .refused r

/-- The device is locked under the default gate (43_authenticator.md R167). -/
def GateShut (s : State) : Prop := DefaultGate s.cfg ∧ s.locked = true

theorem GateShut.readDenied {s : State} (h : GateShut s) (o : Half) (n : Nat) : readDenied s o n = true := by
  obtain ⟨⟨hmode, hread, -⟩, hlocked⟩ := h
  exact (readDenied_iff s o n).2 ⟨⟨hlocked, .inl hmode⟩, .inl hread⟩

theorem GateShut.writeDenied {s : State} (h : GateShut s) (o : Half) (n : Nat) : writeDenied s o n = true := by
  obtain ⟨⟨hmode, -, hwrite⟩, hlocked⟩ := h
  exact (writeDenied_iff s o n).2 ⟨⟨hlocked, .inl hmode⟩, .inl hwrite⟩

/-- An extraction neither opens nor shuts the gate. -/
theorem ExtractionCase.gateShut {s t : State} {e : Extraction} (hx : ExtractionCase s e t) (h : GateShut s) :
    GateShut t := by
  rw [hx.frame]
  exact h

section
variable (m : Memory) (s : State)

@[simp] theorem mapNext_next (f : State → State) : mapNext f (.next s) = .next (f s) := rfl

@[simp] theorem finish_setStore (o : PollOutcome) : finish o (setStore m s) = setStore m (finish o s) := rfl

@[simp] theorem raiseFault_setStore (r : Fault) : raiseFault r (setStore m s) = setStore m (raiseFault r s) := rfl

@[simp] theorem signal_setStore (e : OutEvent) : signal e (setStore m s) = setStore m (signal e s) := rfl

@[simp] theorem setTimestamp_setStore (v : Word) : setTimestamp v (setStore m s) = setStore m (setTimestamp v s) := rfl

@[simp] theorem authenticate_setStore (r : Block) : authenticate r (setStore m s) = setStore m (authenticate r s) := rfl

@[simp] theorem sendLockStatus_setStore : sendLockStatus (setStore m s) = setStore m (sendLockStatus s) := rfl

@[simp] theorem resetRegisters_setStore : resetRegisters (setStore m s) = setStore m (resetRegisters s) := rfl

theorem withinWB_setStore (reach : Nat) (run : Host.Outcome State Fault Refusal) :
    withinWB reach (setStore m s) (mapNext (setStore m) run) = mapNext (setStore m) (withinWB reach s run) := by
  rcases Nat.lt_or_ge s.cfg.wbCap reach with h | h
  · rw [withinWB_of_lt h, withinWB_of_lt (s := setStore m s) h, raiseFault_setStore, mapNext_next]
  · rw [withinWB_of_le h, withinWB_of_le (s := setStore m s) h]

theorem refreshBeforeVersion_setStore :
    refreshBeforeVersion (setStore m s) = setStore m (refreshBeforeVersion s) := by
  by_cases h : s.cfg.challengePolicy = .onEachVersionReply
  · rw [refreshBeforeVersion_of_each h, refreshBeforeVersion_of_each (s := setStore m s) h]
    rfl
  · rw [refreshBeforeVersion_of_not_each h, refreshBeforeVersion_of_not_each (s := setStore m s) h]

@[simp] theorem sendVersion_setStore : sendVersion (setStore m s) = setStore m (sendVersion s) := by
  unfold sendVersion
  rw [refreshBeforeVersion_setStore]
  rfl

@[simp] theorem refreshAfterResponse_setStore :
    refreshAfterResponse (setStore m s) = setStore m (refreshAfterResponse s) := by
  unfold refreshAfterResponse setStore
  dsimp only
  split <;> rfl

/-- A MEM_READ behind a closed gate replies zero bytes, whatever storage holds. -/
theorem replyRead_setStore (h : GateShut s) (off : Half) (n : Byte) :
    replyRead off n (setStore m s) = setStore m (replyRead off n s) := by
  have h' : GateShut (setStore m s) := h
  rw [replyRead, replyRead, if_pos (h'.readDenied _ _), if_pos (h.readDenied _ _)]
  rfl

/-- A MEM_WRITE behind a closed gate is acknowledged and stores nothing. -/
theorem replyWrite_setStore (h : GateShut s) (off : Half) (n : Byte) (allow : Bool) (data : List Byte) :
    replyWrite off n allow data (setStore m s) = setStore m (replyWrite off n allow data s) := by
  have h' : GateShut (setStore m s) := h
  rw [replyWrite, replyWrite, if_pos (h'.writeDenied _ _), if_pos (h.writeDenied _ _)]
  rfl

/-- A command behind a closed gate does not see storage: the two storage commands stop at the gate, and no other one
goes near it. -/
theorem exec_setStore (h : GateShut s) (i : Instr) :
    exec i (setStore m s) = mapNext (setStore m) (exec i s) := by
  cases i with
  | nop051F | nop0521 | rfStatus | battStatus | rebootBl => rfl
  | sessionStart l ts =>
    rw [exec, exec, execSessionStart, execSessionStart, ← withinWB_setStore]
    simp
  | factoryReset l ts =>
    rw [exec, exec, execFactoryReset, execFactoryReset, ← withinWB_setStore]
    simp
  | authResponse l r =>
    rw [exec, exec, execAuthResponse, execAuthResponse, ← withinWB_setStore]
    simp only [authenticate_setStore, sendLockStatus_setStore, refreshAfterResponse_setStore]
    rfl
  | memRead l off n pad ts =>
    rw [exec, exec, execMemRead, execMemRead, ← withinWB_setStore, replyRead_setStore m s h,
      apply_ite (mapNext (setStore m)), apply_ite (mapNext (setStore m))]
    rfl
  | memWrite l off n allow ts data =>
    rw [exec, exec, execMemWrite, execMemWrite, ← withinWB_setStore, replyWrite_setStore m s h,
      apply_ite (mapNext (setStore m)), apply_ite (mapNext (setStore m))]
    rfl

/-- The extractor does not see storage. -/
theorem examine_setStore (w r n : Nat) :
    examine (setStore m s) w r n = ((examine s w r n).1, setStore m (examine s w r n).2) := by
  have hsize : ringLe16 (setStore m s) r 2 = ringLe16 s r 2 := rfl
  have hbyte : ringByte (setStore m s) r = ringByte s r := rfl
  have hcfg : (setStore m s).cfg = s.cfg := rfl
  unfold examine
  rw [hsize, hbyte, hcfg]
  dsimp only
  split
  · rfl
  · split
    · rfl
    · split
      · rfl
      · rw [consume_eq, consume_eq]
        rfl

theorem tryExtract_setStore : tryExtract (setStore m s) = ((tryExtract s).1, setStore m (tryExtract s).2) := by
  have hscan : scan (setStore m s) (pend (setStore m s).cfg.cap (setStore m s).rd (setStore m s).wr) (setStore m s).rd =
    scan s (pend s.cfg.cap s.rd s.wr) s.rd := scan_congr s (setStore m s) rfl rfl _ _
  unfold tryExtract
  rw [hscan]
  split
  · rfl
  · rfl
  · exact examine_setStore m s _ _ _

theorem endPoll_setStore (i : Instr) (o : Host.Outcome State Fault Refusal) :
    endPoll i (mapNext (setStore m) o) = mapNext (setStore m) (endPoll i o) := by
  cases o with
  | next t =>
    simp only [endPoll, mapNext_next, resetRegisters_setStore, apply_ite (setStore m)]
  | fault | refused => rfl

theorem dispatchWB_setStore (h : GateShut s) :
    dispatchWB (setStore m s) = mapNext (setStore m) (dispatchWB s) := by
  unfold dispatchWB
  rw [wbBytes_congr (s := s) (t := setStore m s) rfl rfl]
  split
  · rw [exec_setStore m s h, endPoll_setStore]
  · rfl
  · rfl

theorem poll_setStore (h : GateShut s) : poll (setStore m s) = mapNext (setStore m) (poll s) := by
  have hx := tryExtract_setStore m s
  cases hf : s.faulted with
  | true =>
    rw [poll_faulted hf, poll_faulted (s := setStore m s) hf, mapNext_next]
  | false =>
    rcases he : tryExtract s with ⟨e, t⟩
    rw [he] at hx
    cases e with
    | noFrame o =>
      rw [poll_noFrame hf he, poll_noFrame (s := setStore m s) hf hx, finish_setStore, mapNext_next]
    | ready n =>
      rw [poll_ready hf he, poll_ready (s := setStore m s) hf hx]
      exact dispatchWB_setStore m t ((ExtractionCase.of_eq he).gateShut h)

theorem receive_setStore (b : Byte) : receive b (setStore m s) = setStore m (receive b s) := by
  unfold receive
  rw [apply_ite (setStore m)]
  rfl

/-- The diagram of a step: behind a closed gate it commutes with a replacement of the contents of storage. -/
theorem step_setStore (h : GateShut s) : step (setStore m s) = mapNext (setStore m) (step s) := by
  have hagenda : (setStore m s).agenda = s.agenda := rfl
  unfold step advance
  rw [hagenda]
  cases s.agenda with
  | nil => rfl
  | cons e rest =>
    cases e with
    | tick => exact poll_setStore m { s with agenda := rest } h
    | byte b => exact congrArg _ (receive_setStore m { s with agenda := rest } b)
    | ports | powerOn => rfl

end

/-! ### The events of a locked device -/

/-- An event that does not touch storage (10_state.md R41). -/
def OutEvent.IsControl (e : OutEvent) : Prop := e = .reboot ∨ e = .factoryDefaults ∨ e = .pwrsaveExit

/-- The event log of `t` is that of `s` with events appended, none of them a storage event. -/
def OnlyControlEvents (s t : State) : Prop := ∃ new : List OutEvent, t.ev = s.ev ++ new ∧ ∀ e ∈ new, e.IsControl

theorem OnlyControlEvents.of_eq {s t : State} (h : t.ev = s.ev) : OnlyControlEvents s t :=
  ⟨[], h.trans (List.append_nil _).symm, nofun⟩

/-- A command behind a closed gate signals no storage event: its storage commands are denied. -/
theorem ExecCase.onlyControlEvents {s t : State} {i : Instr} (hx : ExecCase s i t) (h : GateShut s) :
    OnlyControlEvents s t := by
  cases hx with
  | fault | staleRead | staleWrite | deniedRead | deniedWrite | nopA | nopB | rf | batt => exact .of_eq rfl
  | session l ts => exact .of_eq (by rw [sendVersion_eq]; rfl)
  | auth l r => exact .of_eq (by rw [refreshAfterResponse_eq]; rfl)
  | read l off n pad ts hopen => exact absurd (hopen.symm.trans (h.readDenied _ _)) Bool.false_ne_true
  | write l off n allow ts data hopen => exact absurd (hopen.symm.trans (h.writeDenied _ _)) Bool.false_ne_true
  | factory l ts =>
    refine ⟨[.factoryDefaults, .pwrsaveExit], ?_, by simp [OutEvent.IsControl]⟩
    rw [sendVersion_eq]
    exact List.append_assoc _ _ _
  | reboot => exact ⟨[.reboot], rfl, by simp [OutEvent.IsControl]⟩

/-- A step behind a closed gate is a power-on, or signals no storage event. -/
theorem StepCase.onlyControlEvents {s t : State} (hx : StepCase s t) (h : GateShut s)
    (hp : ∀ rest, s.agenda ≠ .powerOn :: rest) : OnlyControlEvents s t := by
  have extracted : ∀ {rest e u}, tryExtract { s with agenda := rest } = (e, u) → u.ev = s.ev := fun hx => by
    rw [(ExtractionCase.of_eq hx).frame]
  cases hx with
  | idle | ignored | byte | ports => exact .of_eq rfl
  | noFrame rest o u _ _ hx => exact .of_eq ((finish_ev o u).trans (extracted hx))
  | noCommand rest n u err _ _ hx =>
    have hev : u.ev = s.ev := extracted hx
    split <;> exact .of_eq hev
  | command rest n u i v _ _ hx _ he =>
    obtain ⟨new, hev, hnew⟩ :=
      (exec_cases he).onlyControlEvents ((ExtractionCase.of_eq hx).gateShut (s := { s with agenda := rest }) h)
    refine ⟨new, ?_, hnew⟩
    rw [← extracted hx, ← hev]
    split <;> rfl
  | powerOn rest ha => exact absurd ha (hp rest)

/-- Settles O46: the diagram of a step, whose case with the machine's own storage says that the step leaves it. -/
theorem lockedDeviceIsIsolatedFromStorage : Obligations.LockedDeviceIsIsolatedFromStorage := by
  intro s t m hgate hlocked hstep
  have h : GateShut s := ⟨hgate, hlocked⟩
  have diagram : ∀ m, step (setStore m s) = .next (setStore m t) := fun m => by
    rw [step_setStore m s h, hstep, mapNext_next]
  have hkept : t = setStore s.store t := Host.Outcome.next.inj (hstep.symm.trans (diagram s.store))
  exact ⟨congrArg (·.store) hkept, diagram m, (step_cases hstep).onlyControlEvents h⟩

end Sys2Proof.Machine

/-! PROOFS. Reset and hazards (spec 70_reset_and_hazards.md): power-on and the state after reset, the overrun of the
ring and the frame too long ever to complete, and the end of a run. -/

namespace Sys2Proof.Machine

/-! ### A frame of `CAP - 8` payload bytes (70_reset_and_hazards.md R255) -/

/-- Settles O17: the frame is as long as the ring, and fewer bytes than that can be pending. -/
theorem frameOfCapMinusEightNeverCompletes : Obligations.FrameOfCapMinusEightNeverCompletes := by
  intro s ⟨_, hrd, _⟩ hheader hsize
  have hpend : pend s.cfg.cap s.rd s.wr < s.cfg.cap := pend_lt _ _ _ (Nat.zero_lt_of_lt hrd)
  calc tryExtract s = examine s s.wr s.rd (pend s.cfg.cap s.rd s.wr) := tryExtract_header hheader
    _ = (.noFrame .noneIncomplete, s) := examine_incomplete rfl hsize.le (hsize ▸ hpend)

/-! ### The overrun (70_reset_and_hazards.md R253) -/

/-- The free bytes of the ring reach from the write cursor round to the read cursor. -/
theorem add_free_mod (cap r w : Nat) (hr : r < cap) (hw : w < cap) : (w + (cap - pend cap r w)) % cap = r := by
  have hlt : pend cap r w < cap := pend_lt cap r w (Nat.zero_lt_of_lt hr)
  calc (w + (cap - pend cap r w)) % cap
      = ((r + pend cap r w) % cap + (cap - pend cap r w)) % cap := by rw [add_pend_mod cap r w hr hw]
    _ = (r + pend cap r w + (cap - pend cap r w)) % cap := Nat.mod_add_mod _ _ _
    _ = (r + cap) % cap := by congr 1; omega
    _ = r := by rw [Nat.add_mod_right, Nat.mod_eq_of_lt hr]

/-- Settles O19: the write cursor comes round to `rd`, and equal cursors read as nothing pending. -/
theorem overrunHidesAllPending : Obligations.OverrunHidesAllPending := by
  intro s bs ⟨_, hrd, hwr⟩ hlen
  have hwrap : (deliver bs s).wr = s.rd := by
    rw [deliver_eq bs s hwr, hlen]
    exact add_free_mod _ _ _ hrd hwr
  refine ⟨hwrap, deliver_rd bs s, tryExtract_empty ?_⟩
  rw [deliver_cfg, deliver_rd, hwrap]
  exact (pend_eq_zero_iff _ _ _ hrd hrd).2 rfl

/-! ### Power-on and the state after reset (70_reset_and_hazards.md R250, R251) -/

/-- A step on a power-on is that power-on in the state with the event taken. -/
theorem step_powerOn {s : State} {rest : List EnvEvent} (h : s.agenda = .powerOn :: rest) :
    step s = .next (powerOn { s with agenda := rest }) := by
  unfold step advance
  rw [h]
  rfl

/-- What a power-on does beside `Reset()` touches no register that `Reset()` writes. -/
theorem holdsResetValues_powerOn (s : State) : HoldsResetValues (powerOn s) :=
  { holdsResetValues_resetRegisters s with }

/-- Settles O26: the step is `Reset()` with the logs and `Faulted` cleared. -/
theorem powerOnResetsMachine : Obligations.PowerOnResetsMachine :=
  fun _ _ h => ⟨_, step_powerOn h, holdsResetValues_powerOn _, ⟨rfl, rfl⟩, rfl, rfl, rfl, rfl, rfl, rfl⟩

/-- The state after reset is what a power-on leaves when nothing has been drawn before it. -/
theorem reset_eq_powerOn : State.reset = powerOn { State.reset with draws := 0 } := rfl

/-- Settles O27: the state after reset is that of a power-on. -/
theorem resetStateHoldsResetValues : Obligations.ResetStateHoldsResetValues :=
  ⟨reset_eq_powerOn ▸ holdsResetValues_powerOn _, rfl, rfl, rfl⟩

/-- The defaults lie in the ranges of 00_scope.md R8; `VERSION` is cut to 15 bytes. -/
theorem valid_defaults : Params.defaults.Valid where
  cap_ge := by decide
  cap_le := by decide
  wbCap_ge := by decide
  wbReset_length := List.length_replicate
  version_length := List.length_take_le _ _

/-- Settles O51: the memories list nothing, the cursors and `FAC` are 0, and no poll has been run. -/
theorem resetMeetsInvariant : Obligations.ResetMeetsInvariant := by
  obtain ⟨hrb, hwb, hstore⟩ := reset_memories_wf
  have hcap : 0 < State.reset.cfg.cap := Nat.zero_lt_of_lt valid_defaults.cap_ge
  exact ⟨{
    params := valid_defaults
    rd_lt := hcap
    wr_lt := hcap
    rb_wf := hrb
    wb_wf := hwb
    store_wf := hstore
    lockout := fun hfac => absurd (show (0 : BitVec 2) = 3 from hfac) (by decide)
    fault_mark := ⟨nofun, fun ⟨_, hr⟩ => nomatch hr⟩ }, rfl⟩

/-! ### A step takes one event (10_state.md R44) -/

/-- Every step takes the first event listed, where there is one, and no other: neither an extraction nor a command
writes the agenda. -/
theorem StepCase.agenda_eq {s t : State} (h : StepCase s t) : t.agenda = s.agenda.tail := by
  have extracted : ∀ {rest e u}, TickNext s rest → tryExtract { s with agenda := rest } = (e, u) →
      u.agenda = s.agenda.tail := fun ht hx => by
    rw [(ExtractionCase.of_eq hx).frame, ht]
    rfl
  cases h with
  | idle ha => rw [ha, List.tail_nil]
  | ignored e rest _ ha => rw [ha, List.tail_cons]
  | noFrame rest o u _ ht hx => exact (finish_agenda o u).trans (extracted ht hx)
  | noCommand rest n u err _ ht hx =>
    have hu := extracted ht hx
    split <;> exact hu
  | command rest n u i v _ ht hx _ he =>
    have hv : v.agenda = s.agenda.tail :=
      calc v.agenda = u.agenda := congrArg (·.agenda) (exec_cases he).frame
        _ = s.agenda.tail := extracted ht hx
    split <;> exact hv
  | byte b rest _ ha => rw [dmaStep_agenda, ha, List.tail_cons]
  | ports p rest ha => rw [ha, List.tail_cons]
  | powerOn rest ha =>
    rw [ha]
    rfl

/-! ### Finite runs (70_reset_and_hazards.md R263) -/

/-- With no event listed the run has ended. -/
theorem runHasEnded_of_nil {s : State} (h : s.agenda = []) : RunHasEnded s := .inr (by simp [h])

theorem runSteps_of_ended {s : State} (n : Nat) (h : RunHasEnded s) : runSteps n s = .next s := by
  cases n with
  | zero => rfl
  | succ n => exact if_pos ((runEnded_iff s).2 h)

theorem runSteps_of_step {s t : State} (n : Nat) (h : ¬RunHasEnded s) (hstep : step s = .next t) :
    runSteps (n + 1) s = runSteps n t := by
  rw [runSteps, if_neg (mt (runEnded_iff s).1 h), hstep]

/-- As many steps as events are listed reach the end of the run, for each takes one of them. -/
theorem runSteps_reaches_end {n : Nat} {s : State} (h : s.agenda.length ≤ n) :
    ∃ t, runSteps n s = .next t ∧ RunHasEnded t ∧ t.agenda <:+ s.agenda := by
  induction n generalizing s with
  | zero => exact ⟨s, rfl, runHasEnded_of_nil (List.length_eq_zero_iff.1 (Nat.le_zero.1 h)), List.suffix_rfl⟩
  | succ n ih =>
    by_cases hend : RunHasEnded s
    · exact ⟨s, runSteps_of_ended _ hend, hend, List.suffix_rfl⟩
    · obtain ⟨u, hstep⟩ := step_next s
      have hagenda : u.agenda = s.agenda.tail := (step_cases hstep).agenda_eq
      obtain ⟨t, hrun, ht, hsuffix⟩ := ih (s := u) (by rw [hagenda, List.length_tail]; omega)
      rw [hagenda] at hsuffix
      exact ⟨t, (runSteps_of_step n hend hstep).trans hrun, ht, hsuffix.trans (List.tail_suffix _)⟩

/-- Settles O52: one step for each event is enough, and an end is acceptable but for `Faulted`. -/
theorem finiteRunReachesItsEnd : Obligations.FiniteRunReachesItsEnd := by
  intro events s
  obtain ⟨t, hrun, hend, hsuffix⟩ := runSteps_reaches_end (s := { s with agenda := events }) le_rfl
  exact ⟨t, hrun, hend, hsuffix, and_iff_right hend⟩

/-- Settles O53: the step takes `e`, and of the steps of the run it leaves one for each of the rest. -/
theorem finiteRunTakesEventsInOrder : Obligations.FiniteRunTakesEventsInOrder := by
  intro e rest s t hend hstep
  have hagenda : t.agenda = rest := (step_cases hstep).agenda_eq
  refine ⟨hagenda, ?_⟩
  calc finiteRun (e :: rest) s = runSteps rest.length t := runSteps_of_step rest.length hend hstep
    _ = finiteRun rest t := by
      subst hagenda
      rfl

/-! ### After the end of a run (70_reset_and_hazards.md R263) -/

/-- `t` differs from `s` at most in the ports and in the events still to come. -/
def OnlyPortsAndAgendaDiffer (s t : State) : Prop := t = { s with ports := t.ports, agenda := t.agenda }

theorem OnlyPortsAndAgendaDiffer.trans {s t u : State} (h : OnlyPortsAndAgendaDiffer s t)
    (h' : OnlyPortsAndAgendaDiffer t u) : OnlyPortsAndAgendaDiffer s u := by
  unfold OnlyPortsAndAgendaDiffer at h h' ⊢
  rw [h', h]

/-- The ports are no part of the observation. -/
theorem OnlyPortsAndAgendaDiffer.observe_eq {s t : State} (h : OnlyPortsAndAgendaDiffer s t) :
    observe t = observe s := by
  rw [h]
  rfl

theorem OnlyPortsAndAgendaDiffer.sameMemory {s t : State} (h : OnlyPortsAndAgendaDiffer s t) : SameMemory s t := by
  rw [h]
  exact sameMemory_of_eq rfl rfl rfl rfl

/-- A step of an ended run is no agent's, and without a power-on it writes at most the ports. -/
theorem StepCase.of_ended {s t : State} (h : StepCase s t) (hend : RunHasEnded s) (hp : .powerOn ∉ s.agenda) :
    OnlyPortsAndAgendaDiffer s t := by
  have noAgent : s.faulted = false → ∀ e rest, s.agenda = e :: rest → e ≠ .tick ∧ ∀ b, e ≠ .byte b :=
    fun hf e rest ha => hend.resolve_left (by simp [hf]) e (ha ▸ List.mem_cons_self)
  cases h with
  | idle | ignored | ports => rfl
  | noFrame _ _ _ hf ht | noCommand _ _ _ _ hf ht | command _ _ _ _ _ hf ht =>
    exact absurd rfl (noAgent hf _ _ ht).1
  | byte b rest hf ha => exact absurd rfl ((noAgent hf _ _ ha).2 b)
  | powerOn rest ha => exact absurd (ha ▸ List.mem_cons_self) hp

/-- An ended run stays ended: `Faulted` is kept, and there is only less to come. -/
theorem RunHasEnded.of_suffix {s t : State} (h : RunHasEnded s) (hf : t.faulted = s.faulted)
    (ha : t.agenda <:+ s.agenda) : RunHasEnded t :=
  h.imp hf.trans fun hall e he => hall e (ha.subset he)

/-- The host's run, one step on. -/
theorem run_of_step {s t : State} (n : Nat) (h : step s = .next t) :
    Host.Core.run Sys2Proof.core (n + 1) s = Host.Core.run Sys2Proof.core n t := by
  have h' : Sys2Proof.core.step s = .next t := h
  simp only [Host.Core.run, h']

/-- Any number of steps of an ended run, without a power-on, leaves it ended and writes at most the ports. -/
theorem run_of_ended (n : Nat) {s : State} (hend : RunHasEnded s) (hp : .powerOn ∉ s.agenda) :
    ∃ t : State, Host.Core.run Sys2Proof.core n s = .next t ∧ RunHasEnded t ∧ OnlyPortsAndAgendaDiffer s t := by
  induction n generalizing s with
  | zero => exact ⟨s, rfl, hend, rfl⟩
  | succ n ih =>
    obtain ⟨u, hstep⟩ := step_next s
    have hcase := step_cases hstep
    have hsame : OnlyPortsAndAgendaDiffer s u := hcase.of_ended hend hp
    have hsuffix : u.agenda <:+ s.agenda := hcase.agenda_eq ▸ List.tail_suffix _
    have hfaulted : u.faulted = s.faulted := congrArg (·.faulted) hsame
    obtain ⟨t, hrun, ht, hrest⟩ := ih (hend.of_suffix hfaulted hsuffix) (mt (hsuffix.subset ·) hp)
    exact ⟨t, (run_of_step n hstep).trans hrun, ht, hsame.trans hrest⟩

/-- A step with no event listed leaves the whole state (log 19). -/
theorem step_of_nil {s : State} (h : s.agenda = []) : step s = .next s := by
  unfold step advance
  rw [h]

/-- Settles O54: what further steps write, the ports and the agenda, is neither observed nor a memory. -/
theorem endedRunIsFinal : Obligations.EndedRunIsFinal := by
  refine ⟨fun n s hend hp => ?_, fun s => step_of_nil⟩
  obtain ⟨t, hrun, ht, hsame⟩ := run_of_ended n hend hp
  exact ⟨t, hrun, ht, hsame.observe_eq, hsame.sameMemory⟩

end Sys2Proof.Machine
